-- ==== Sys2Proof/Word.lean ====
section
/-! DEFINITION. The word, the byte and the bit sequence of CORE. -/

namespace Sys2Proof

/-- A command word or a 32-bit control register, bits numbered 31 down to 0 (R11). -/
abbrev Word := BitVec 32

/-- A byte of a data window, bit 7 the most significant (R10). -/
abbrev Byte := BitVec 8

/-- A bit sequence: a finite ordered list of bits, index 0 the first bit, `true` for 1 (R8). -/
abbrev BitSeq := List Bool

end Sys2Proof
end

