-- ==== Sys2Proof/Machine/Bits.lean ====
section
/-! DEFINITION. Operations on bit sequences (R9) and the conversion between bytes and bits (R10). -/

namespace Sys2Proof.Machine

/-- `zeros(n)` (R9). -/
def zeros (n : Nat) : BitSeq := List.replicate n false

/-- `s[i]`, and 0 at or beyond the length: the bit cell `i` of a register holding `s` (R9, R21). -/
def cell (s : BitSeq) (i : Nat) : Bool := s.getD i false

/-- `s[i..j)` (R9). -/
def slice (s : BitSeq) (i j : Nat) : BitSeq := (s.take j).drop i

/-- `a xor b` of two sequences of the same length (R9). -/
def xorSeq (a b : BitSeq) : BitSeq := List.zipWith Bool.xor a b

/-- `weight(s)`, the number of 1 bits (R9). -/
def weight (s : BitSeq) : Nat := s.count true

/-- `parity(s)`, the XOR of all bits (R9); the accumulator starts at 0 and toggles on every 1 (R107). -/
def parity (s : BitSeq) : Bool := s.foldl Bool.xor false

/-- `rotl(s)` (R9). -/
def rotl : BitSeq → BitSeq
  | [] => []
  | b :: s => s ++ [b]

/-- `rotr(s)` (R9). -/
def rotr (s : BitSeq) : BitSeq := slice s (s.length - 1) s.length ++ slice s 0 (s.length - 1)

/-- `rotl^r(s)` (R9). -/
def rotlN : Nat → BitSeq → BitSeq
  | 0, s => s
  | r + 1, s => rotlN r (rotl s)

/-- `rotr^r(s)` (R9). -/
def rotrN : Nat → BitSeq → BitSeq
  | 0, s => s
  | r + 1, s => rotrN r (rotr s)

/-- `rev(s)` (R9). -/
def rev (s : BitSeq) : BitSeq := s.reverse

/-- `flip(s, p)` (R9): bit `p` inverted. -/
def flip (s : BitSeq) (p : Nat) : BitSeq := s.set p (!cell s p)

/-- `uint(s)`, index 0 the most significant digit (R9). -/
def uint (s : BitSeq) : Nat := s.foldl (fun acc b => 2 * acc + b.toNat) 0

/-- `bits_n(v)`, the `n`-bit sequence of the number `v` (R9). -/
def bitsN (n v : Nat) : BitSeq := (List.range n).map fun i => v.testBit (n - 1 - i)

/-- The eight bits of a byte, most significant first (R10). -/
def byteBits (b : Byte) : BitSeq := (List.range 8).map fun k => b.getLsbD (7 - k)

/-- Byte `j` of a sequence: bit `7-k` is the sequence's bit `8j+k`, 0 at or beyond its length (R10, R44). -/
def byteAt (s : BitSeq) (j : Nat) : Byte :=
  BitVec.ofNat 8 (uint ((List.range 8).map fun k => cell s (8 * j + k)))

/-- `toBits(b)` (R10). -/
def toBits (b : List Byte) : BitSeq := b.flatMap byteBits

/-- `ceil(n/8)`, the bytes that hold `n` bits (R10). -/
def byteCount (n : Nat) : Nat := (n + 7) / 8

/-- `fromBits(s)`, the last byte padded on the right with 0 bits (R10). -/
def fromBits (s : BitSeq) : List Byte := (List.range (byteCount s.length)).map (byteAt s)

end Sys2Proof.Machine
end

