-- ==== Sys2Proof/Config.lean ====
section
/-! DEFINITION. The two open parameters of an instance of CORE (R6, U9). They have no body: whatever is
proved holds for every legal value. -/

namespace Sys2Proof

/-- Which of the 4094 legal capacities this instance has, counted down from the largest (R6: a multiple of 8,
24 to 32768; log entry 1). -/
opaque Config.windowShortfall : Fin 4094

/-- `VMAX / 8`, the number of bytes of a data window: 3 to 4096 (R41). -/
def Config.windowBytes : Nat := (4093 - Config.windowShortfall.val) + 3

/-- `VMAX`, the capacity of a bit-vector register in bits (R6). -/
def Config.vmax : Nat := 8 * Config.windowBytes

/-- `BASE`, the bus address of the register space, chosen by the platform (R6, R40; log entry 2). -/
opaque Config.base : Nat

end Sys2Proof
end

