-- ==== Sys2Proof/Syntax.lean ====
section
/-! DEFINITION. The commands of CORE-CMD 1.0, one constructor per row of the opcode table (R64). -/

namespace Sys2Proof

/-- A register field: it names one of the four identical bit-vector registers (R22, R62). -/
inductive VReg where
  | v0 | v1 | v2 | v3
deriving DecidableEq, Repr

/-- A command. The destination stands first; `imm` is the immediate as a natural number (R63, R16 (c)),
whose range `WellFormed` checks. -/
inductive Instr where
  | bvPad8 (rd rs1 : VReg)
  | bvRol (rd rs1 : VReg)
  | bvRor (rd rs1 : VReg)
  | bvRev (rd rs1 : VReg)
  | bvFlip (rd rs1 : VReg) (imm : Nat)
  | stfStuff (rd rs1 : VReg)
  | stfUnstuff (rd rs1 : VReg)
  | parGen (rd rs1 : VReg)
  | parChk (rd rs1 : VReg)
  /-- `rs1` the payload, `rs2` the destination address, `rs3` the source address (R110). -/
  | frmEnc (rd rs1 rs2 rs3 : VReg)
  /-- `rs1` the received frame, `rs2` the local address (R112). -/
  | frmDec (rd rs1 rs2 : VReg)
  | hamEnc (rd rs1 : VReg)
  | hamDec (rd rs1 : VReg)
  | hamDeci (rd rs1 : VReg) (imm : Nat)
  | hamSyn (rd rs1 : VReg)
  | crcMod (rd rs1 : VReg)
  | crcStep (rd rs1 : VReg)
  | crcEnc (rd rs1 : VReg)
  | crcRep (rd rs1 : VReg)
  | crcDec (rd rs1 : VReg)
deriving DecidableEq, Repr

end Sys2Proof
end

