-- ==== Sys2Proof/Machine/State.lean ====
section
/-! DEFINITION. The state of CORE (R20), the host's accesses, the reasons a step can stop, and reset (R30). -/

namespace Sys2Proof.Machine

/-- The values of `STATUS.CODE`, in the order of R180 (numbers in `Flags.lean`). Codes 9 to 15 never appear,
so they have no name (R26, U6). -/
inductive Code where
  | ok
  /-- Reserved, never raised (R181). -/
  | malformedBits
  | frameNotFound
  | checksumMismatch
  | addressMismatch
  | uncorrectableError
  | operandError
  | illegalCommand
  | noDivision
deriving DecidableEq, Repr

/-- How a command ends (R70): with a result and an `INFO` value, or with a failure code and an `INFO` value.
It is the whole value of a command's function of its operands (R13). -/
inductive Verdict where
  | success (result : BitSeq) (info : Nat)
  | failure (code : Code) (info : Nat)
deriving DecidableEq, Repr

/-- What a legal access addresses (R41 to R43). -/
inductive Target where
  | cmd
  | status
  | info
  | len (r : VReg)
  /-- Byte `j` of the data window of a register (R44). -/
  | data (r : VReg) (j : Nat)
deriving DecidableEq, Repr

/-- What the outside world does to CORE, one at a time (R12, R40, R51, R200; log entry 4). -/
inductive HostEvent where
  /-- The reset input is applied (R200). -/
  | reset
  /-- `MemRead(off, n)`: `n` bytes at offset `off` from `BASE` (R12). -/
  | read (off n : Nat)
  /-- `MemWrite(off, n, v)` (R12). -/
  | write (off n v : Nat)
  /-- A read at a bus address (R40). -/
  | busRead (addr n : Nat)
  /-- A write at a bus address (R40). -/
  | busWrite (addr n v : Nat)
deriving DecidableEq, Repr

/-- The whole architectural state (R20), and the model's own view of the host port (log entry 4). A register
is held as its bit sequence, which R21 says is its state. -/
structure State where
  v0 : BitSeq
  v1 : BitSeq
  v2 : BitSeq
  v3 : BitSeq
  /-- `CMD` (R25). -/
  cmd : Word
  /-- `STATUS.CODE` (R26). -/
  status : Code
  /-- `INFO` (R27). -/
  info : Word
  /-- The host's accesses that CORE has not yet taken, oldest first (not the spec's state; log entry 4). -/
  pending : List HostEvent
  /-- The number the latest access returned, none for a write or a reset (not the spec's state; log entry 4). -/
  reply : Option Nat
deriving DecidableEq, Repr

/-- CORE itself has no faults (R66, R184). -/
inductive Fault where
  /-- Raised by a step that takes a host access at a bus address outside the register space of R40: it is no
  access to CORE, and the spec gives what it meets no behaviour. Safe (log entry 2). -/
  | outsideRegisterSpace
deriving DecidableEq, Repr

/-- CORE refuses nothing: every word is answered (R66). -/
inductive Refusal where
  /-- Raised by an arm of `exec` whose instruction has no meaning yet; no arm raises it. Safe. -/
  | notModelled (mnemonic : String)
deriving DecidableEq, Repr

/-- The state after reset, every register at the value of R30; no host access is waiting and none has been
answered (log entry 4). -/
def State.reset : State where
  v0 := []
  v1 := []
  v2 := []
  v3 := []
  cmd := 0
  status := .ok
  info := 0
  pending := []
  reply := none

end Sys2Proof.Machine
end

