-- ==== Sys2Proof/Machine/Flags.lean ====
section
/-! DEFINITION. The outcome registers `STATUS` and `INFO`: CORE has no flags or condition codes besides
them (R26, R27, R29). -/

namespace Sys2Proof.Machine

/-- The number of a status code (R180). -/
def Code.number : Code → Nat
  | .ok => 0
  | .malformedBits => 1
  | .frameNotFound => 2
  | .checksumMismatch => 3
  | .addressMismatch => 4
  | .uncorrectableError => 5
  | .operandError => 6
  | .illegalCommand => 7
  | .noDivision => 8

/-- The 32-bit `STATUS` register: `CODE` in bits 3:0, bits 31:4 hard-wired 0 (R26). -/
def State.statusWord (s : State) : Word := BitVec.ofNat 32 s.status.number

/-- `STATUS <- c`, `INFO <- v`: every executed command writes both (R26, R27). -/
def State.setOutcome (s : State) (c : Code) (v : Nat) : State :=
  { s with status := c, info := BitVec.ofNat 32 v }

end Sys2Proof.Machine
end

