-- ==== Sys2Proof/Machine/Operands.lean ====
section
/-! DEFINITION. The operands a command names (R60 to R63) and the reading and writing of the bit-vector
registers (R22, R23, R69). -/

namespace Sys2Proof.Machine

/-- `V[r]` (R12, R21). -/
def State.reg (s : State) : VReg → BitSeq
  | .v0 => s.v0
  | .v1 => s.v1
  | .v2 => s.v2
  | .v3 => s.v3

/-- `V[r] <- x`: the whole sequence is replaced, length and bits (R12, R23). -/
def State.setReg (s : State) (r : VReg) (x : BitSeq) : State :=
  match r with
  | .v0 => { s with v0 := x }
  | .v1 => { s with v1 := x }
  | .v2 => { s with v2 := x }
  | .v3 => { s with v3 := x }

/-- The destination register `rd` of a command (R60). -/
def dest : Instr → VReg
  | .bvPad8 rd _ => rd
  | .bvRol rd _ => rd
  | .bvRor rd _ => rd
  | .bvRev rd _ => rd
  | .bvFlip rd _ _ => rd
  | .stfStuff rd _ => rd
  | .stfUnstuff rd _ => rd
  | .parGen rd _ => rd
  | .parChk rd _ => rd
  | .frmEnc rd _ _ _ => rd
  | .frmDec rd _ _ => rd
  | .hamEnc rd _ => rd
  | .hamDec rd _ => rd
  | .hamDeci rd _ _ => rd
  | .hamSyn rd _ => rd
  | .crcMod rd _ => rd
  | .crcStep rd _ => rd
  | .crcEnc rd _ => rd
  | .crcRep rd _ => rd
  | .crcDec rd _ => rd

/-- The source registers a command's format uses (R61, R69). -/
def sources : Instr → List VReg
  | .bvPad8 _ rs1 => [rs1]
  | .bvRol _ rs1 => [rs1]
  | .bvRor _ rs1 => [rs1]
  | .bvRev _ rs1 => [rs1]
  | .bvFlip _ rs1 _ => [rs1]
  | .stfStuff _ rs1 => [rs1]
  | .stfUnstuff _ rs1 => [rs1]
  | .parGen _ rs1 => [rs1]
  | .parChk _ rs1 => [rs1]
  | .frmEnc _ rs1 rs2 rs3 => [rs1, rs2, rs3]
  | .frmDec _ rs1 rs2 => [rs1, rs2]
  | .hamEnc _ rs1 => [rs1]
  | .hamDec _ rs1 => [rs1]
  | .hamDeci _ rs1 _ => [rs1]
  | .hamSyn _ rs1 => [rs1]
  | .crcMod _ rs1 => [rs1]
  | .crcStep _ rs1 => [rs1]
  | .crcEnc _ rs1 => [rs1]
  | .crcRep _ rs1 => [rs1]
  | .crcDec _ rs1 => [rs1]

end Sys2Proof.Machine
end

