-- ==== Sys2Proof/Machine/Ops.lean ====
section
/-! DEFINITION. The completion of a command, common to all twenty (R70 to R72, R184, R185), and the reset of
the machine's registers (R200). -/

namespace Sys2Proof.Machine

/-- Success (R70): `V[rd] <- result`, `STATUS <- OK`, `INFO <- v`. -/
def State.succeed (s : State) (rd : VReg) (x : BitSeq) (v : Nat) : State :=
  (s.setReg rd x).setOutcome .ok v

/-- Failure, `raise <Kind>(v)` (R70, R184): `STATUS` and `INFO` are written and no vector register. It takes
the place of entering an exception; there is no saved state, so nothing is restored after it and the next
`CMD` write executes normally (R185). -/
def State.fail (s : State) (k : Code) (v : Nat) : State := s.setOutcome k v

/-- A command ends in exactly one of the two ways of R70. -/
def State.finish (s : State) (rd : VReg) : Verdict → State
  | .success x v => s.succeed rd x v
  | .failure k v => s.fail k v

/-- `raise OperandError(0)`. -/
def operandError : Verdict := .failure .operandError 0

/-- The capacity check, the last check of a command whose result can be longer than its sources: a result
longer than `VMAX` raises `OperandError(0)` (R71, R72). -/
def ifFits (x : BitSeq) : Verdict :=
  if x.length ≤ Config.vmax then .success x 0 else operandError

/-- All registers of CORE take their reset values (R30, R200). Reset does not execute the zero word it leaves
in `CMD`; the accesses the host has still to make are not CORE's state (log entries 4 and 5). -/
def State.applyReset (s : State) : State := { State.reset with pending := s.pending }

end Sys2Proof.Machine
end

