-- ==== Sys2Proof/Machine/BitVector.lean ====
section
/-! DEFINITION. The bit-vector unit BV: BV.PAD8, BV.ROL, BV.ROR, BV.REV, BV.FLIP (R80 to R86). -/

namespace Sys2Proof.Machine

/-- `x ++ zeros(k)` with `k = (8 - (n mod 8)) mod 8` (R81). -/
def pad8 (x : BitSeq) : BitSeq := x ++ zeros ((8 - x.length % 8) % 8)

/-- BV.FLIP's function of its operands (R85). -/
def flipAt (x : BitSeq) (p : Nat) : Verdict :=
  if p ≥ x.length then operandError else .success (flip x p) 0

/-- BV.PAD8 (R81). -/
def execBvPad8 (rd rs1 : VReg) (s : State) : Host.Outcome State Fault Refusal :=
  .next (s.finish rd (.success (pad8 (s.reg rs1)) 0))

/-- BV.ROL (R82). -/
def execBvRol (rd rs1 : VReg) (s : State) : Host.Outcome State Fault Refusal :=
  .next (s.finish rd (.success (rotl (s.reg rs1)) 0))

/-- BV.ROR (R83). -/
def execBvRor (rd rs1 : VReg) (s : State) : Host.Outcome State Fault Refusal :=
  .next (s.finish rd (.success (rotr (s.reg rs1)) 0))

/-- BV.REV (R84). -/
def execBvRev (rd rs1 : VReg) (s : State) : Host.Outcome State Fault Refusal :=
  .next (s.finish rd (.success (rev (s.reg rs1)) 0))

/-- BV.FLIP (R85). -/
def execBvFlip (rd rs1 : VReg) (imm : Nat) (s : State) : Host.Outcome State Fault Refusal :=
  .next (s.finish rd (flipAt (s.reg rs1) imm))

end Sys2Proof.Machine
end

