-- ==== Sys2Proof/Machine/Crc.lean ====
section
/-! DEFINITION. The CRC divider and the cyclic-shift error locator CRC, generator 1101 (R150 to R165). -/

namespace Sys2Proof.Machine

/-! ## Functions -/

/-- `CRC_G` = 1101, x^3 + x^2 + 1 (R151). -/
def CRC_G : BitSeq := [true, true, false, true]

/-- `CRC_DEG`, the length of a remainder (R6, R151). -/
def CRC_DEG : Nat := 3

/-- One clock of the bit-serial divider: the next bit enters the 4-bit register at the right, and the
generator is XOR-ed in when the leading bit is then 1 (R152). -/
def divClock (w : BitVec 4) (b : Bool) : BitVec 4 :=
  let w' := (w <<< 1) ||| (BitVec.ofBool b).setWidth 4
  if w'.msb then w' ^^^ 0b1101#4 else w'

/-- The low three bits of the divider's register, most significant first (R152). -/
def lowThree (w : BitVec 4) : BitSeq := [w.getLsbD 2, w.getLsbD 1, w.getLsbD 0]

/-- `mod2(D)`, always 3 bits, in the bit-serial form of R152. -/
def mod2 (D : BitSeq) : BitSeq := lowThree (D.foldl divClock 0#4)

/-- The divisor XOR-ed into the window `W[i..i+4)` of the working copy when its leading bit is 1 (R152). -/
def windowStep (W : BitSeq) (i : Nat) : BitSeq :=
  if cell W i then slice W 0 i ++ xorSeq (slice W i (i + 4)) CRC_G ++ slice W (i + 4) W.length else W

/-- `mod2(D)` in the sliding-window form of R152, the reference the bit-serial form is to equal. -/
def mod2Window (D : BitSeq) : BitSeq :=
  if D.length < 4 then zeros (3 - D.length) ++ D
  else slice ((List.range (D.length - 3)).foldl windowStep D) (D.length - 3) D.length

/-- `divstep(w)` on a 4-bit window; no result when the leading bit is 0 (R153). -/
def divstep (w : BitSeq) : Option BitSeq :=
  if cell w 0 then some (xorSeq w CRC_G) else none

/-- `crcenc(p)` (R154). -/
def crcenc (p : BitSeq) : BitSeq := p ++ mod2 (p ++ zeros 3)

/-- The remainder `m`, right-aligned, XOR-ed into the final bits of `v` (R155). -/
def xorFinal (v m : BitSeq) : BitSeq :=
  slice v 0 (v.length - 3) ++ xorSeq (slice v (v.length - 3) v.length) m

/-- The bounded loop of `repair`: `left` attempts remain, `r` rotations are made so far, `v` is the rotated
word (R155). -/
def repairLoop : (left r : Nat) → (v : BitSeq) → Option (BitSeq × Nat)
  | 0, _, _ => none
  | left + 1, r, v =>
    if weight (mod2 v) ≤ 1 then some (rotrN r (xorFinal v (mod2 v)), r)
    else repairLoop left (r + 1) (rotl v)

/-- `repair(w)`: attempts at `r = 0, ..., n-1`, the first that qualifies is taken (R155). -/
def repair (w : BitSeq) : Option (BitSeq × Nat) := repairLoop w.length 0 w

/-- `crcdec(x)` (R156). -/
def crcdec (x : BitSeq) : Option (BitSeq × Nat) :=
  match repair x with
  | none => none
  | some (y, r) => some (slice y 0 (x.length - 3), r)

/-! ## Functions of the commands -/

/-- CRC.STEP (R158). -/
def crcStepped (w : BitSeq) : Verdict :=
  if w.length ≠ 4 then operandError
  else
    match divstep w with
    | none => .failure .noDivision 0
    | some y => .success y 0

/-- What CRC.REP and CRC.DEC share: the result and the rotation count, or `UncorrectableError` with the word
length (R160, R161). -/
def crcSearched (n : Nat) (found : Option (BitSeq × Nat)) : Verdict :=
  if n < 3 then operandError
  else
    match found with
    | none => .failure .uncorrectableError n
    | some (y, r) => .success y r

/-! ## Commands -/

/-- CRC.MOD (R157). -/
def execCrcMod (rd rs1 : VReg) (s : State) : Host.Outcome State Fault Refusal :=
  .next (s.finish rd (.success (mod2 (s.reg rs1)) 0))

/-- CRC.STEP (R158). -/
def execCrcStep (rd rs1 : VReg) (s : State) : Host.Outcome State Fault Refusal :=
  .next (s.finish rd (crcStepped (s.reg rs1)))

/-- CRC.ENC (R159). -/
def execCrcEnc (rd rs1 : VReg) (s : State) : Host.Outcome State Fault Refusal :=
  .next (s.finish rd (ifFits (crcenc (s.reg rs1))))

/-- CRC.REP (R160). -/
def execCrcRep (rd rs1 : VReg) (s : State) : Host.Outcome State Fault Refusal :=
  .next (s.finish rd (crcSearched (s.reg rs1).length (repair (s.reg rs1))))

/-- CRC.DEC (R161). -/
def execCrcDec (rd rs1 : VReg) (s : State) : Host.Outcome State Fault Refusal :=
  .next (s.finish rd (crcSearched (s.reg rs1).length (crcdec (s.reg rs1))))

end Sys2Proof.Machine
end

