-- ==== Sys2Proof/Machine/Framer.lean ====
section
/-! DEFINITION. The stuffing engine STF, the parity accumulator PAR and the framer FRM (R100 to R114). -/

namespace Sys2Proof.Machine

/-! ## Functions -/

/-- `FLAG` = 01111110 (R101). -/
def FLAG : BitSeq := [false, true, true, true, true, true, true, false]

/-- The loop of `stuff` with the run counter `c` (R102). -/
def stuffFrom (c : Nat) : BitSeq → BitSeq
  | [] => []
  | true :: x => if c + 1 = 5 then true :: false :: stuffFrom 0 x else true :: stuffFrom (c + 1) x
  | false :: x => false :: stuffFrom 0 x

/-- `stuff(x)`: a 0 after every five consecutive 1s (R102). -/
def stuff (x : BitSeq) : BitSeq := stuffFrom 0 x

/-- The loop of `unstuff`, `c` the number of consecutive 1s just before in the input (R103). -/
def unstuffFrom (c : Nat) : BitSeq → BitSeq
  | [] => []
  | true :: x => true :: unstuffFrom (c + 1) x
  | false :: x => if c ≥ 5 then unstuffFrom 0 x else false :: unstuffFrom 0 x

/-- `unstuff(x)`: every 0 preceded by five or more 1s is deleted (R103). -/
def unstuff (x : BitSeq) : BitSeq := unstuffFrom 0 x

/-- `body(p, d, s)`: destination first, source second, payload last, no closing flag (R109). -/
def frameBody (p d s : BitSeq) : BitSeq :=
  FLAG ++ stuff d ++ FLAG ++ stuff s ++ FLAG ++ stuff p

/-- `x ++ [parity(x)]` (R107). -/
def withParity (x : BitSeq) : BitSeq := x ++ [parity x]

/-- `frame(p, d, s)` (R109). -/
def frame (p d s : BitSeq) : BitSeq := withParity (frameBody p d s)

/-- The loop of `flagscan` over the bits from index `i` on; `skip` bits still belong to the flag found last, so
they start no other (R111). -/
def flagscanFrom (i skip : Nat) : BitSeq → List Nat
  | [] => []
  | b :: rest =>
    match skip with
    | k + 1 => flagscanFrom (i + 1) k rest
    | 0 =>
      if (b :: rest).take 8 = FLAG then i :: flagscanFrom (i + 1) 7 rest
      else flagscanFrom (i + 1) 0 rest

/-- `flagscan(B)`: the start indices of the flags, leftmost first and without overlap (R111). -/
def flagscan (B : BitSeq) : List Nat := flagscanFrom 0 0 B

/-! ## Functions of the commands -/

/-- PAR.CHK (R108): an empty sequence has no trailing bit to match. -/
def parityChecked (x : BitSeq) : Verdict :=
  if x.length = 0 then .failure .checksumMismatch 0
  else if parity (slice x 0 (x.length - 1)) ≠ cell x (x.length - 1) then .failure .checksumMismatch 0
  else .success (slice x 0 (x.length - 1)) 0

/-- FRM.DEC (R112): `f` the received frame, `a` the local address; the checks in the order of R183. -/
def frameDecoded (f a : BitSeq) : Verdict :=
  let n := f.length
  if n = 0 ∨ parity (slice f 0 (n - 1)) ≠ cell f (n - 1) then .failure .checksumMismatch 0
  else
    let B := slice f 0 (n - 1)
    match flagscan B with
    | [f0, f1, f2] =>
      let d := unstuff (slice B (f0 + 8) f1)
      let p := unstuff (slice B (f2 + 8) B.length)
      if d ≠ a then .failure .addressMismatch 0 else .success p 0
    | F => .failure .frameNotFound (min F.length 65535)

/-! ## Commands -/

/-- STF.STUFF (R105). -/
def execStfStuff (rd rs1 : VReg) (s : State) : Host.Outcome State Fault Refusal :=
  .next (s.finish rd (ifFits (stuff (s.reg rs1))))

/-- STF.UNSTUFF (R106). -/
def execStfUnstuff (rd rs1 : VReg) (s : State) : Host.Outcome State Fault Refusal :=
  .next (s.finish rd (.success (unstuff (s.reg rs1)) 0))

/-- PAR.GEN (R107). -/
def execParGen (rd rs1 : VReg) (s : State) : Host.Outcome State Fault Refusal :=
  .next (s.finish rd (ifFits (withParity (s.reg rs1))))

/-- PAR.CHK (R108). -/
def execParChk (rd rs1 : VReg) (s : State) : Host.Outcome State Fault Refusal :=
  .next (s.finish rd (parityChecked (s.reg rs1)))

/-- FRM.ENC (R110): `rs1` the payload, `rs2` the destination address, `rs3` the source address. -/
def execFrmEnc (rd rs1 rs2 rs3 : VReg) (s : State) : Host.Outcome State Fault Refusal :=
  .next (s.finish rd (ifFits (frame (s.reg rs1) (s.reg rs2) (s.reg rs3))))

/-- FRM.DEC (R112): `rs1` the received frame, `rs2` the local address. -/
def execFrmDec (rd rs1 rs2 : VReg) (s : State) : Host.Outcome State Fault Refusal :=
  .next (s.finish rd (frameDecoded (s.reg rs1) (s.reg rs2)))

end Sys2Proof.Machine
end

