-- ==== Sys2Proof/Machine/Hamming.lean ====
section
/-! DEFINITION. The Hamming encoder and decoder HAM: 16 data bits in a 21-bit codeword, single-error-correcting,
no double-error detection (R2, R130 to R141). -/

namespace Sys2Proof.Machine

/-! ## The code -/

/-- Data bits of a block (R6). -/
def HAM_K : Nat := 16

/-- Length of a codeword (R6). -/
def HAM_N : Nat := 21

/-- The position (1 to 21) of each data bit (R131). -/
def DPOS : List Nat := [3, 5, 6, 7, 9, 10, 11, 12, 13, 14, 15, 17, 18, 19, 20, 21]

/-- `check_k(c)`: the XOR of the bits at the positions of 1 to 21 that have bit `k` set (R132). -/
def hamCheck (k : Nat) (c : BitSeq) : Bool :=
  parity (((List.range HAM_N).filter fun i => (i + 1).testBit k).map (cell c))

/-- The data bits at their positions, the parity slots still 0 (R133). -/
def placeData (d : BitSeq) : BitSeq :=
  (DPOS.zip d).foldl (fun c qb => c.set (qb.1 - 1) qb.2) (zeros HAM_N)

/-- `henc(d)` (R133). -/
def henc (d : BitSeq) : BitSeq :=
  (List.range 5).foldl (fun c k => c.set (2 ^ k - 1) (hamCheck k c)) (placeData d)

/-- `syndrome(c)`: check 0 is the least significant digit (R134). -/
def syndrome (c : BitSeq) : Nat :=
  (hamCheck 0 c).toNat * 1 + (hamCheck 1 c).toNat * 2 + (hamCheck 2 c).toNat * 4 +
    (hamCheck 3 c).toNat * 8 + (hamCheck 4 c).toNat * 16

/-- `hstrip(c)`: the data bits in order (R135). -/
def hstrip (c : BitSeq) : BitSeq := DPOS.map fun q => cell c (q - 1)

/-- `hdec(c)`; no result for a syndrome of 22 or more, which names no bit of the codeword (R135). -/
def hdec (c : BitSeq) : Option BitSeq :=
  let s := syndrome c
  if s = 0 then some (hstrip c)
  else if s ≤ 21 then some (hstrip (flip c (s - 1)))
  else none

/-! ## Functions of the commands -/

/-- HAM.ENC (R136). -/
def hamEncoded (d : BitSeq) : Verdict :=
  if d.length ≠ HAM_K then operandError else .success (henc d) 0

/-- HAM.DEC (R137): `INFO` receives the syndrome. -/
def hamDecoded (c : BitSeq) : Verdict :=
  if c.length ≠ HAM_N then operandError
  else
    match hdec c with
    | none => .failure .uncorrectableError (syndrome c)
    | some d => .success d (syndrome c)

/-- HAM.DECI (R138): the length is tested before the immediate (R183). -/
def hamDecodedInjected (c : BitSeq) (p : Nat) : Verdict :=
  if c.length ≠ HAM_N then operandError
  else if p ≥ HAM_N then operandError
  else hamDecoded (flip c p)

/-- HAM.SYN (R139). -/
def hamSyndrome (c : BitSeq) : Verdict :=
  if c.length ≠ HAM_N then operandError else .success (bitsN 5 (syndrome c)) (syndrome c)

/-! ## Commands -/

/-- HAM.ENC (R136). -/
def execHamEnc (rd rs1 : VReg) (s : State) : Host.Outcome State Fault Refusal :=
  .next (s.finish rd (hamEncoded (s.reg rs1)))

/-- HAM.DEC (R137). -/
def execHamDec (rd rs1 : VReg) (s : State) : Host.Outcome State Fault Refusal :=
  .next (s.finish rd (hamDecoded (s.reg rs1)))

/-- HAM.DECI (R138). -/
def execHamDeci (rd rs1 : VReg) (imm : Nat) (s : State) : Host.Outcome State Fault Refusal :=
  .next (s.finish rd (hamDecodedInjected (s.reg rs1) imm))

/-- HAM.SYN (R139). -/
def execHamSyn (rd rs1 : VReg) (s : State) : Host.Outcome State Fault Refusal :=
  .next (s.finish rd (hamSyndrome (s.reg rs1)))

end Sys2Proof.Machine
end

