-- ==== Sys2Proof/Machine/Dispatch.lean ====
section
/-! DEFINITION. One arm per command (R64): the meaning each calls is the command's rule. -/

namespace Sys2Proof.Machine

def exec (i : Instr) (s : State) : Host.Outcome State Fault Refusal :=
  match i with
  | .bvPad8 rd rs1 => Sys2Proof.Machine.execBvPad8 rd rs1 s
  | .bvRol rd rs1 => Sys2Proof.Machine.execBvRol rd rs1 s
  | .bvRor rd rs1 => Sys2Proof.Machine.execBvRor rd rs1 s
  | .bvRev rd rs1 => Sys2Proof.Machine.execBvRev rd rs1 s
  | .bvFlip rd rs1 imm => Sys2Proof.Machine.execBvFlip rd rs1 imm s
  | .stfStuff rd rs1 => Sys2Proof.Machine.execStfStuff rd rs1 s
  | .stfUnstuff rd rs1 => Sys2Proof.Machine.execStfUnstuff rd rs1 s
  | .parGen rd rs1 => Sys2Proof.Machine.execParGen rd rs1 s
  | .parChk rd rs1 => Sys2Proof.Machine.execParChk rd rs1 s
  | .frmEnc rd rs1 rs2 rs3 => Sys2Proof.Machine.execFrmEnc rd rs1 rs2 rs3 s
  | .frmDec rd rs1 rs2 => Sys2Proof.Machine.execFrmDec rd rs1 rs2 s
  | .hamEnc rd rs1 => Sys2Proof.Machine.execHamEnc rd rs1 s
  | .hamDec rd rs1 => Sys2Proof.Machine.execHamDec rd rs1 s
  | .hamDeci rd rs1 imm => Sys2Proof.Machine.execHamDeci rd rs1 imm s
  | .hamSyn rd rs1 => Sys2Proof.Machine.execHamSyn rd rs1 s
  | .crcMod rd rs1 => Sys2Proof.Machine.execCrcMod rd rs1 s
  | .crcStep rd rs1 => Sys2Proof.Machine.execCrcStep rd rs1 s
  | .crcEnc rd rs1 => Sys2Proof.Machine.execCrcEnc rd rs1 s
  | .crcRep rd rs1 => Sys2Proof.Machine.execCrcRep rd rs1 s
  | .crcDec rd rs1 => Sys2Proof.Machine.execCrcDec rd rs1 s

end Sys2Proof.Machine
end

