-- ==== Sys2Proof/WellFormed.lean ====
section
/-! DEFINITION. Which terms of `Instr` are commands that a word can hold: the immediate is 16 bits wide
(R60, R63). Register numbers are bounded by their type (R62). -/

namespace Sys2Proof

/-- The immediate is a number 0 to 65535 (R63). -/
def immInRange (imm : Nat) : Bool := decide (imm < 65536)

/-- A command is well-formed when its immediate, if it has one, fits in `imm16` (R63). -/
def Instr.wellFormed : Instr → Bool
  | .bvPad8 _ _ => true
  | .bvRol _ _ => true
  | .bvRor _ _ => true
  | .bvRev _ _ => true
  | .bvFlip _ _ imm => immInRange imm
  | .stfStuff _ _ => true
  | .stfUnstuff _ _ => true
  | .parGen _ _ => true
  | .parChk _ _ => true
  | .frmEnc _ _ _ _ => true
  | .frmDec _ _ _ => true
  | .hamEnc _ _ => true
  | .hamDec _ _ => true
  | .hamDeci _ _ imm => immInRange imm
  | .hamSyn _ _ => true
  | .crcMod _ _ => true
  | .crcStep _ _ => true
  | .crcEnc _ _ => true
  | .crcRep _ _ => true
  | .crcDec _ _ => true

end Sys2Proof
end

