-- ==== Sys2Proof/Decode.lean ====
section
/-! DEFINITION. The command word: its fields, the decoder, the encoder, the opcode table and the assembler
spelling (R60 to R68). -/

namespace Sys2Proof

/-! ## Fields (R60) -/

/-- `opcode = w[31:24]`. -/
def opcodeField (w : Word) : BitVec 8 := w.extractLsb' 24 8

/-- `rd = w[23:22]`. -/
def rdField (w : Word) : BitVec 2 := w.extractLsb' 22 2

/-- `rs1 = w[21:20]`. -/
def rs1Field (w : Word) : BitVec 2 := w.extractLsb' 20 2

/-- `rs2 = w[19:18]`. -/
def rs2Field (w : Word) : BitVec 2 := w.extractLsb' 18 2

/-- `rs3 = w[17:16]`. -/
def rs3Field (w : Word) : BitVec 2 := w.extractLsb' 16 2

/-- `imm16 = w[15:0]`. -/
def immField (w : Word) : BitVec 16 := w.extractLsb' 0 16

/-- The number `n` of register `Vn` (R62). -/
def VReg.num : VReg → Nat
  | .v0 => 0
  | .v1 => 1
  | .v2 => 2
  | .v3 => 3

/-- The 2-bit field that names a register (R62). -/
def VReg.bits (r : VReg) : BitVec 2 := BitVec.ofNat 2 r.num

/-- The register a 2-bit field names; all four values are legal (R62). -/
def VReg.ofBits (b : BitVec 2) : VReg :=
  if b = 0#2 then .v0 else if b = 1#2 then .v1 else if b = 2#2 then .v2 else .v3

/-! ## Decoding -/

/-- Why a word is an illegal command (R66). -/
inductive IllegalReason where
  /-- R66 (a): the opcode is not one of the twenty. -/
  | unlistedOpcode
  /-- R66 (b): the opcode is listed but a field its format does not use is not 0. -/
  | unusedFieldNotZero
deriving DecidableEq, Repr

/-- Format R2: `rd`, `rs1`; the rest must be 0 (R61). -/
def decodeR2 (mk : VReg → VReg → Instr) (w : Word) : Except IllegalReason Instr :=
  if rs2Field w = 0 ∧ rs3Field w = 0 ∧ immField w = 0 then
    .ok (mk (.ofBits (rdField w)) (.ofBits (rs1Field w)))
  else .error .unusedFieldNotZero

/-- Format R3: `rd`, `rs1`, `rs2`; the rest must be 0 (R61). -/
def decodeR3 (mk : VReg → VReg → VReg → Instr) (w : Word) : Except IllegalReason Instr :=
  if rs3Field w = 0 ∧ immField w = 0 then
    .ok (mk (.ofBits (rdField w)) (.ofBits (rs1Field w)) (.ofBits (rs2Field w)))
  else .error .unusedFieldNotZero

/-- Format R4: `rd`, `rs1`, `rs2`, `rs3`; `imm16` must be 0 (R61). -/
def decodeR4 (mk : VReg → VReg → VReg → VReg → Instr) (w : Word) : Except IllegalReason Instr :=
  if immField w = 0 then
    .ok (mk (.ofBits (rdField w)) (.ofBits (rs1Field w)) (.ofBits (rs2Field w)) (.ofBits (rs3Field w)))
  else .error .unusedFieldNotZero

/-- Format I: `rd`, `rs1`, `imm16`; `rs2` and `rs3` must be 0 (R61). The immediate is zero-extended (R63). -/
def decodeI (mk : VReg → VReg → Nat → Instr) (w : Word) : Except IllegalReason Instr :=
  if rs2Field w = 0 ∧ rs3Field w = 0 then
    .ok (mk (.ofBits (rdField w)) (.ofBits (rs1Field w)) (immField w).toNat)
  else .error .unusedFieldNotZero

/-- The command a word is, or why it is illegal. The whole 8-bit opcode is matched (R64, R65, R66). -/
def decode (w : Word) : Except IllegalReason Instr :=
  match (opcodeField w).toNat with
  | 0x01 => decodeR2 .bvPad8 w
  | 0x02 => decodeR2 .bvRol w
  | 0x03 => decodeR2 .bvRor w
  | 0x04 => decodeR2 .bvRev w
  | 0x05 => decodeI .bvFlip w
  | 0x10 => decodeR2 .stfStuff w
  | 0x11 => decodeR2 .stfUnstuff w
  | 0x20 => decodeR2 .parGen w
  | 0x21 => decodeR2 .parChk w
  | 0x30 => decodeR4 .frmEnc w
  | 0x31 => decodeR3 .frmDec w
  | 0x40 => decodeR2 .hamEnc w
  | 0x41 => decodeR2 .hamDec w
  | 0x42 => decodeI .hamDeci w
  | 0x43 => decodeR2 .hamSyn w
  | 0x50 => decodeR2 .crcMod w
  | 0x51 => decodeR2 .crcStep w
  | 0x52 => decodeR2 .crcEnc w
  | 0x53 => decodeR2 .crcRep w
  | 0x54 => decodeR2 .crcDec w
  | _ => .error .unlistedOpcode

/-- The command whose word has the `nbits` bits of `w`, the bits above `nbits` being 0. A command is one
32-bit word (R60). -/
def decodeTableWord (nbits w : Nat) : Option Instr :=
  if w % 2 ^ nbits < 2 ^ 32 then
    match decode (BitVec.ofNat 32 (w % 2 ^ nbits)) with
    | .ok i => some i
    | .error _ => none
  else none

/-! ## Encoding -/

/-- The word with the given fields: `opcode<<24 | rd<<22 | rs1<<20 | rs2<<18 | rs3<<16 | imm` (R60, R68). -/
def packWord (opcode : BitVec 8) (rd rs1 rs2 rs3 : BitVec 2) (imm : BitVec 16) : Word :=
  opcode.setWidth 32 <<< 24 ||| rd.setWidth 32 <<< 22 ||| rs1.setWidth 32 <<< 20 |||
    rs2.setWidth 32 <<< 18 ||| rs3.setWidth 32 <<< 16 ||| imm.setWidth 32

/-- A word of format R2 (R61). -/
def encodeR2 (opcode : BitVec 8) (rd rs1 : VReg) : Word := packWord opcode rd.bits rs1.bits 0 0 0

/-- A word of format I (R61). -/
def encodeI (opcode : BitVec 8) (rd rs1 : VReg) (imm : Nat) : Word :=
  packWord opcode rd.bits rs1.bits 0 0 (BitVec.ofNat 16 imm)

/-- The word of a command (R60, R61, R64). An immediate that is not well-formed is truncated. -/
def encode : Instr → Word
  | .bvPad8 rd rs1 => encodeR2 0x01 rd rs1
  | .bvRol rd rs1 => encodeR2 0x02 rd rs1
  | .bvRor rd rs1 => encodeR2 0x03 rd rs1
  | .bvRev rd rs1 => encodeR2 0x04 rd rs1
  | .bvFlip rd rs1 imm => encodeI 0x05 rd rs1 imm
  | .stfStuff rd rs1 => encodeR2 0x10 rd rs1
  | .stfUnstuff rd rs1 => encodeR2 0x11 rd rs1
  | .parGen rd rs1 => encodeR2 0x20 rd rs1
  | .parChk rd rs1 => encodeR2 0x21 rd rs1
  | .frmEnc rd rs1 rs2 rs3 => packWord 0x30 rd.bits rs1.bits rs2.bits rs3.bits 0
  | .frmDec rd rs1 rs2 => packWord 0x31 rd.bits rs1.bits rs2.bits 0 0
  | .hamEnc rd rs1 => encodeR2 0x40 rd rs1
  | .hamDec rd rs1 => encodeR2 0x41 rd rs1
  | .hamDeci rd rs1 imm => encodeI 0x42 rd rs1 imm
  | .hamSyn rd rs1 => encodeR2 0x43 rd rs1
  | .crcMod rd rs1 => encodeR2 0x50 rd rs1
  | .crcStep rd rs1 => encodeR2 0x51 rd rs1
  | .crcEnc rd rs1 => encodeR2 0x52 rd rs1
  | .crcRep rd rs1 => encodeR2 0x53 rd rs1
  | .crcDec rd rs1 => encodeR2 0x54 rd rs1

/-! ## The opcode table (R61, R64) -/

/-- Mask of format R2 (R61). -/
def maskR2 : Word := 0xFF0FFFFF

/-- Mask of format R3 (R61). -/
def maskR3 : Word := 0xFF03FFFF

/-- Mask of format R4 (R61). -/
def maskR4 : Word := 0xFF00FFFF

/-- Mask of format I (R61). -/
def maskI : Word := 0xFF0F0000

/-- The table of R64 as (mask, match): a word `w` is the command of a row when `w & mask == match` (R61). -/
def opcodeTable : List (Word × Word) :=
  [(maskR2, 0x01000000), (maskR2, 0x02000000), (maskR2, 0x03000000), (maskR2, 0x04000000),
   (maskI, 0x05000000), (maskR2, 0x10000000), (maskR2, 0x11000000), (maskR2, 0x20000000),
   (maskR2, 0x21000000), (maskR4, 0x30000000)] ++
  [(maskR3, 0x31000000), (maskR2, 0x40000000), (maskR2, 0x41000000), (maskI, 0x42000000),
   (maskR2, 0x43000000), (maskR2, 0x50000000), (maskR2, 0x51000000), (maskR2, 0x52000000),
   (maskR2, 0x53000000), (maskR2, 0x54000000)]

/-- The row of R64 that a command belongs to, as (mask, match). -/
def Instr.row : Instr → Word × Word
  | .bvPad8 _ _ => (maskR2, 0x01000000)
  | .bvRol _ _ => (maskR2, 0x02000000)
  | .bvRor _ _ => (maskR2, 0x03000000)
  | .bvRev _ _ => (maskR2, 0x04000000)
  | .bvFlip _ _ _ => (maskI, 0x05000000)
  | .stfStuff _ _ => (maskR2, 0x10000000)
  | .stfUnstuff _ _ => (maskR2, 0x11000000)
  | .parGen _ _ => (maskR2, 0x20000000)
  | .parChk _ _ => (maskR2, 0x21000000)
  | .frmEnc _ _ _ _ => (maskR4, 0x30000000)
  | .frmDec _ _ _ => (maskR3, 0x31000000)
  | .hamEnc _ _ => (maskR2, 0x40000000)
  | .hamDec _ _ => (maskR2, 0x41000000)
  | .hamDeci _ _ _ => (maskI, 0x42000000)
  | .hamSyn _ _ => (maskR2, 0x43000000)
  | .crcMod _ _ => (maskR2, 0x50000000)
  | .crcStep _ _ => (maskR2, 0x51000000)
  | .crcEnc _ _ => (maskR2, 0x52000000)
  | .crcRep _ _ => (maskR2, 0x53000000)
  | .crcDec _ _ => (maskR2, 0x54000000)

/-! ## Assembler spelling (R68) -/

/-- `Vn` (R68). -/
def VReg.asm : VReg → String
  | .v0 => "V0"
  | .v1 => "V1"
  | .v2 => "V2"
  | .v3 => "V3"

/-- `MNEMONIC Vd, Vs1` (R68). -/
def asmR2 (mnemonic : String) (rd rs1 : VReg) : String :=
  mnemonic ++ " " ++ rd.asm ++ ", " ++ rs1.asm

/-- `MNEMONIC Vd, Vs1, #imm`, the immediate in decimal (R68). -/
def asmI (mnemonic : String) (rd rs1 : VReg) (imm : Nat) : String :=
  asmR2 mnemonic rd rs1 ++ ", #" ++ toString imm

/-- A command as the spec writes it, destination first; there are no pseudo-instructions (R68). -/
def Instr.asm : Instr → String
  | .bvPad8 rd rs1 => asmR2 "BV.PAD8" rd rs1
  | .bvRol rd rs1 => asmR2 "BV.ROL" rd rs1
  | .bvRor rd rs1 => asmR2 "BV.ROR" rd rs1
  | .bvRev rd rs1 => asmR2 "BV.REV" rd rs1
  | .bvFlip rd rs1 imm => asmI "BV.FLIP" rd rs1 imm
  | .stfStuff rd rs1 => asmR2 "STF.STUFF" rd rs1
  | .stfUnstuff rd rs1 => asmR2 "STF.UNSTUFF" rd rs1
  | .parGen rd rs1 => asmR2 "PAR.GEN" rd rs1
  | .parChk rd rs1 => asmR2 "PAR.CHK" rd rs1
  | .frmEnc rd rs1 rs2 rs3 => asmR2 "FRM.ENC" rd rs1 ++ ", " ++ rs2.asm ++ ", " ++ rs3.asm
  | .frmDec rd rs1 rs2 => asmR2 "FRM.DEC" rd rs1 ++ ", " ++ rs2.asm
  | .hamEnc rd rs1 => asmR2 "HAM.ENC" rd rs1
  | .hamDec rd rs1 => asmR2 "HAM.DEC" rd rs1
  | .hamDeci rd rs1 imm => asmI "HAM.DECI" rd rs1 imm
  | .hamSyn rd rs1 => asmR2 "HAM.SYN" rd rs1
  | .crcMod rd rs1 => asmR2 "CRC.MOD" rd rs1
  | .crcStep rd rs1 => asmR2 "CRC.STEP" rd rs1
  | .crcEnc rd rs1 => asmR2 "CRC.ENC" rd rs1
  | .crcRep rd rs1 => asmR2 "CRC.REP" rd rs1
  | .crcDec rd rs1 => asmR2 "CRC.DEC" rd rs1

end Sys2Proof
end

