-- ==== Sys2Proof/Machine/HostPort.lean ====
section
/-! DEFINITION. The register space seen from the host port: the register map, reads, and the writes that start
no command (R40 to R50, R56). -/

namespace Sys2Proof.Machine

/-! ## The map (R40, R41) -/

/-- The size of the register space in bytes (R40). -/
def spaceSize : Nat := 0x5000

/-- The offset of a bus address, none outside `BASE` to `BASE + 0x4FFF` (R40). -/
def busOffset (addr : Nat) : Option Nat :=
  if Config.base ≤ addr ∧ addr < Config.base + spaceSize then some (addr - Config.base) else none

/-- What a 4-byte access at an offset addresses (R41, R42). -/
def wordTarget : Nat → Option Target
  | 0x0000 => some .cmd
  | 0x0004 => some .status
  | 0x0008 => some .info
  | 0x0020 => some (.len .v0)
  | 0x0024 => some (.len .v1)
  | 0x0028 => some (.len .v2)
  | 0x002C => some (.len .v3)
  | _ => none

/-- The register whose data window starts at offset `0x1000 * q` (R41). -/
def windowReg : Nat → Option VReg
  | 1 => some .v0
  | 2 => some .v1
  | 3 => some .v2
  | 4 => some .v3
  | _ => none

/-- What a 1-byte access at an offset addresses: a byte below `VMAX/8` of a window (R41, R43). -/
def byteTarget (off : Nat) : Option Target :=
  match windowReg (off / 0x1000) with
  | some r => if off % 0x1000 < Config.windowBytes then some (.data r (off % 0x1000)) else none
  | none => none

/-- What a legal access of `n` bytes at an offset addresses; every other access is illegal (R42, R43, R48). -/
def target (off n : Nat) : Option Target :=
  if n = 4 then wordTarget off else if n = 1 then byteTarget off else none

/-- The offset of `VnLEN` (R41). -/
def lenOffset (r : VReg) : Nat := 0x020 + 4 * r.num

/-- The offset of byte `j` of the data window of `Vn` (R41, R44). -/
def dataOffset (r : VReg) (j : Nat) : Nat := 0x1000 * (r.num + 1) + j

/-! ## Reads -/

/-- The number a legal read returns (R25 to R28, R45). -/
def State.readTarget (s : State) : Target → Nat
  | .cmd => s.cmd.toNat
  | .status => s.statusWord.toNat
  | .info => s.info.toNat
  | .len r => (s.reg r).length
  | .data r j => (byteAt (s.reg r) j).toNat

/-- `MemRead(off, n)`: an illegal read returns 0 for every byte (R42, R43, R48). -/
def State.memRead (s : State) (off n : Nat) : Nat :=
  match target off n with
  | some t => s.readTarget t
  | none => 0

/-! ## Writes that start no command -/

/-- The sequence with its length set to `L`: truncated on the right, or lengthened with 0 bits (R47). -/
def setLength (x : BitSeq) (L : Nat) : BitSeq := x.take L ++ zeros (L - x.length)

/-- A `VnLEN` write: ignored when `v[31:16]` is not 0 or the length is above `VMAX` (R47). -/
def State.writeLen (s : State) (r : VReg) (v : Word) : State :=
  if v.extractLsb' 16 16 ≠ 0#16 ∨ (v.extractLsb' 0 16).toNat > Config.vmax then s
  else s.setReg r (setLength (s.reg r) (v.extractLsb' 0 16).toNat)

/-- The sequence with the bits of byte `j` that lie below its length taken from `v`; the others are dropped
(R46). -/
def setByte (x : BitSeq) (j : Nat) (v : Byte) : BitSeq :=
  (List.range x.length).map fun i => if i / 8 = j then v.getLsbD (7 - i % 8) else cell x i

/-- A data-window write; `VnLEN` does not change (R46). -/
def State.writeData (s : State) (r : VReg) (j : Nat) (v : Byte) : State :=
  s.setReg r (setByte (s.reg r) j v)

/-- A legal write other than one of `CMD`; writes of `STATUS` and `INFO` are ignored (R26, R27, R49). -/
def State.writeTarget (s : State) (t : Target) (v : Nat) : State :=
  match t with
  | .cmd => s
  | .status => s
  | .info => s
  | .len r => s.writeLen r (BitVec.ofNat 32 v)
  | .data r j => s.writeData r j (BitVec.ofNat 8 v)

/-! ## Abstract host actions (R56) -/

/-- `HostLoad(n, x)` for `len(x) <= VMAX`: `V[n] <- x` and nothing else (R56). -/
def State.hostLoad (s : State) (r : VReg) (x : BitSeq) : State := s.setReg r x

/-- `HostRead(n)`: the register's length and bits; it changes nothing (R56). -/
def State.hostRead (s : State) (r : VReg) : BitSeq := s.reg r

/-- The accesses that `HostLoad` stands for: the length first, then the bytes of `fromBits(x)` (R46). -/
def loadEvents (r : VReg) (x : BitSeq) : List HostEvent :=
  .write (lenOffset r) 4 x.length ::
    (List.range (byteCount x.length)).map fun j => .write (dataOffset r j) 1 (byteAt x j).toNat

end Sys2Proof.Machine
end

