-- ==== Sys2Proof/Machine/Access.lean ====
section
/-! DEFINITION. One host access, complete: a `CMD` write stores its word and executes it (R25, R203), a reset
empties the machine (R200), and everything else reads or writes the register space. -/

namespace Sys2Proof.Machine

/-- A write of `w` to `CMD`: `w` is stored and executed as a command; an illegal word raises
`IllegalCommand(0)` (R25, R54, R66). -/
def execute (w : Word) (s : State) : Host.Outcome State Fault Refusal :=
  match decode w with
  | .ok i => exec i { s with cmd := w }
  | .error _ => .next ({ s with cmd := w }.fail .illegalCommand 0)

/-- `MemRead(off, n)`: the host gets a number and no state of CORE changes (R49). -/
def performRead (off n : Nat) (s : State) : Host.Outcome State Fault Refusal :=
  .next { s with reply := some (s.memRead off n) }

/-- `MemWrite(off, n, v)`: an illegal write is ignored (R48). -/
def performWrite (off n v : Nat) (s : State) : Host.Outcome State Fault Refusal :=
  match target off n with
  | some .cmd => execute (BitVec.ofNat 32 v) s
  | some t => .next (s.writeTarget t v)
  | none => .next s

/-- One host event, complete before the next begins (R50, R51). An access at a bus address outside the
register space is no access to CORE (log entry 2). -/
def perform (e : HostEvent) (s : State) : Host.Outcome State Fault Refusal :=
  match e with
  | .reset => .next s.applyReset
  | .read off n => performRead off n s
  | .write off n v => performWrite off n v s
  | .busRead addr n =>
    match busOffset addr with
    | some off => performRead off n s
    | none => .fault .outsideRegisterSpace
  | .busWrite addr n v =>
    match busOffset addr with
    | some off => performWrite off n v s
    | none => .fault .outsideRegisterSpace

end Sys2Proof.Machine
end

