-- ==== Sys2Proof/Machine/Step.lean ====
section
/-! DEFINITION. One step of CORE: it takes the oldest pending host access and performs it whole (R50, R51). -/

namespace Sys2Proof.Machine

/-- CORE executes only what the host writes to `CMD`: with no access pending it is idle and nothing changes
(R24, R201; log entry 4). -/
def step (s : State) : Host.Outcome State Fault Refusal :=
  match s.pending with
  | [] => .next s
  | e :: rest => perform e { s with pending := rest, reply := none }

/-- The next access CORE takes is the host's write to `CMD` of the word whose `nbits` bits are those of `w`
(R25, R54; log entry 4). -/
def State.withFetchWord (s : State) (nbits w : Nat) : State :=
  { s with pending := .write 0x0000 4 (w % 2 ^ nbits) :: s.pending }

end Sys2Proof.Machine
end

