-- ==== Sys2Proof/Safety.lean ====
section
/-! DEFINITION. What claims are stated in: how a command completes and fails (R70), the invariant of the
machine (R21, R26, R27, R181), and runs that never stop. -/

namespace Sys2Proof.Machine

/-- Success as R70 describes it, frame included: the destination holds `x`, `STATUS` is `OK`, `INFO` is `v`,
and nothing else changed. -/
structure Completed (s : State) (rd : VReg) (x : BitSeq) (v : Nat) (t : State) : Prop where
  result : t.reg rd = x
  others : ∀ r, r ≠ rd → t.reg r = s.reg r
  status : t.status = .ok
  info : t.info = BitVec.ofNat 32 v
  cmd : t.cmd = s.cmd
  pending : t.pending = s.pending
  reply : t.reply = s.reply

/-- Failure as R70 and R184 describe it: `STATUS` and `INFO` are written, every vector register and all else
is as it was. -/
structure Failed (s : State) (k : Code) (v : Nat) (t : State) : Prop where
  regs : ∀ r, t.reg r = s.reg r
  status : t.status = k
  info : t.info = BitVec.ofNat 32 v
  cmd : t.cmd = s.cmd
  pending : t.pending = s.pending
  reply : t.reply = s.reply

/-- Executing `i` in `s` answers a next state in which `rd` received `x` and `INFO` is `v`. -/
def Succeeds (i : Instr) (s : State) (rd : VReg) (x : BitSeq) (v : Nat) : Prop :=
  ∃ t, exec i s = .next t ∧ Completed s rd x v t

/-- Executing `i` in `s` answers a next state with the failure `raise k(v)`. -/
def Raises (i : Instr) (s : State) (k : Code) (v : Nat) : Prop :=
  ∃ t, exec i s = .next t ∧ Failed s k v t

/-- The `INFO` values R27 and R181 allow beside a status code; `MalformedBits` never appears. -/
def OutcomeLegal : Code → Nat → Prop
  | .ok, v => v ≤ 32768
  | .malformedBits, _ => False
  | .frameNotFound, v => v ≠ 3 ∧ v ≤ 65535
  | .checksumMismatch, v => v = 0
  | .addressMismatch, v => v = 0
  | .uncorrectableError, v => 3 ≤ v ∧ v ≤ 32768
  | .operandError, v => v = 0
  | .illegalCommand, v => v = 0
  | .noDivision, v => v = 0

/-- The invariant: no register is longer than `VMAX` (R21), and `STATUS` with `INFO` are an outcome some
command has (R26, R27, R181). -/
structure Inv (s : State) : Prop where
  fits : ∀ r, (s.reg r).length ≤ Config.vmax
  outcome : OutcomeLegal s.status s.info.toNat

/-- The event is an access to CORE or a reset, not a bus access outside the register space (R40). -/
def Addressed : HostEvent → Prop
  | .reset => True
  | .read _ _ => True
  | .write _ _ _ => True
  | .busRead addr _ => Config.base ≤ addr ∧ addr < Config.base + 0x5000
  | .busWrite addr _ _ => Config.base ≤ addr ∧ addr < Config.base + 0x5000

/-- A safe run: however many steps are made from `s`, none stops the machine. -/
def NeverStops (s : State) : Prop := ∀ k, ∃ t, Host.Core.run Sys2Proof.core k s = .next t

/-- The XOR, as numbers, of the positions (1 to 21) of the 1 bits: R134's equivalent form of the syndrome. -/
def positionXor (c : BitSeq) : Nat :=
  (List.range 21).foldl (fun a i => if cell c i then a ^^^ (i + 1) else a) 0

/-- The access is one that R42 and R43 allow; every other access is illegal (R48). -/
def LegalAccess (off n : Nat) : Prop :=
  (n = 4 ∧ off ∈ [0x0000, 0x0004, 0x0008, 0x0020, 0x0024, 0x0028, 0x002C]) ∨
  (n = 1 ∧ ∃ q, 1 ≤ q ∧ q ≤ 4 ∧ 0x1000 * q ≤ off ∧ off < 0x1000 * q + Config.vmax / 8)

end Sys2Proof.Machine
end

