-- ==== Sys2Proof/Certificates/Slice0/Obligations.lean ====
section
/-! DEFINITION. The statements for the provers, each a reading of rules of the spec. `Succeeds i s rd x v` says
that `exec i s` ANSWERS A NEXT STATE in which `rd` holds `x`, `STATUS` is `OK`, `INFO` is `v` and nothing else
changed; `Raises i s k v` that it answers a next state with code `k`, `INFO` `v` and every register as before. -/

open Sys2Proof Sys2Proof.Machine

/-! ## Reset, steps, host events -/

/-- R30: the value of every piece of state after reset. -/
def Obligations.ResetHoldsTheStatedValues : Prop :=
  (∀ r, State.reset.reg r = []) ∧ State.reset.cmd = 0 ∧ State.reset.statusWord = 0 ∧ State.reset.info = 0

/-- The invariant holds in the state after reset. -/
def Obligations.ResetMeetsInvariant : Prop := Inv State.reset

/-- Whatever one step does, it keeps every register within `VMAX` bits and leaves `STATUS` and `INFO` an outcome
that R181 lists. Every host event and every command is covered. -/
def Obligations.StepKeepsInvariant : Prop :=
  ∀ s s' : State, Inv s → step s = .next s' → Inv s'

/-- R200: a reset gives all state of CORE the values of R30, whatever it held; it does not execute the zero word
it leaves in `CMD`. What the host has still to do is not CORE's state (the model's choice, log entry 4). -/
def Obligations.ResetInputRestoresResetState : Prop :=
  ∀ (s : State) (rest : List HostEvent), s.pending = .reset :: rest →
    step s = .next { State.reset with pending := rest }

/-- A step runs the decoded command: a write of a legal word to `CMD` is `exec` of its command at the state in
which the word is stored and the access taken; an illegal word is stored, `STATUS` becomes `IllegalCommand`,
`INFO` becomes 0, and no register changes. -/
def Obligations.StepExecutesWrittenCommand : Prop :=
  ∀ (s : State) (rest : List HostEvent) (w : Word), s.pending = .write 0x000 4 w.toNat :: rest →
    (∀ i, decode w = .ok i → step s = exec i { s with cmd := w, pending := rest, reply := none }) ∧
    (∀ e, decode w = .error e →
      step s = .next { s with cmd := w, pending := rest, reply := none, status := .illegalCommand, info := 0 })

/-- A run whose host accesses are all addressed to CORE never stops: no word, no operand and no access makes the
block fault or refuse. -/
def Obligations.AddressedRunsNeverStop : Prop :=
  ∀ s : State, (∀ e ∈ s.pending, Addressed e) → NeverStops s

/-! ## Encoding -/

/-- Words written out from the spec's encoding decode to what they stand for, and words that break it do not. -/
def Obligations.SampleWordsDecodeAsWritten : Prop :=
  decode 0x01400000 = .ok (.bvPad8 .v1 .v0) ∧
  decode 0x05400007 = .ok (.bvFlip .v1 .v0 7) ∧
  decode 0x11400000 = .ok (.stfUnstuff .v1 .v0) ∧
  decode 0x21400000 = .ok (.parChk .v1 .v0) ∧
  decode 0x30C60000 = .ok (.frmEnc .v3 .v0 .v1 .v2) ∧
  decode 0x31340000 = .ok (.frmDec .v0 .v3 .v1) ∧
  decode 0x42400014 = .ok (.hamDeci .v1 .v0 20) ∧
  decode 0x54900000 = .ok (.crcDec .v2 .v1) ∧
  decode 0x00000000 = .error .unlistedOpcode ∧
  decode 0x60000000 = .error .unlistedOpcode ∧
  decode 0x02440000 = .error .unusedFieldNotZero ∧
  decode 0x31350000 = .error .unusedFieldNotZero

/-- Decoding the word of a well-formed command gives the command back, with every operand. -/
def Obligations.DecodeInvertsEncode : Prop :=
  ∀ i : Instr, i.wellFormed = true → decode (encode i) = .ok i

/-- A word that decodes is the word of its command, which is well-formed: no bit of a legal word is dropped. -/
def Obligations.EncodeInvertsDecode : Prop :=
  ∀ (w : Word) (i : Instr), decode w = .ok i → i.wellFormed = true ∧ encode i = w

/-- R61: a word is the command of a row when `w & mask == match`, and a word that is no row's is no command; the
rows are (mask, match) as the spec's table gives them. -/
def Obligations.DecodeAcceptsExactlyTheTable : Prop :=
  (∀ w : Word, (∃ i, decode w = .ok i) ↔ ∃ row ∈ opcodeTable, w &&& row.1 = row.2) ∧
  (∀ (w : Word) (i : Instr), decode w = .ok i → i.row ∈ opcodeTable ∧ w &&& i.row.1 = i.row.2) ∧
  opcodeTable.length = 20 ∧
  (∀ row ∈ opcodeTable, ∀ row' ∈ opcodeTable, ∀ w : Word,
    w &&& row.1 = row.2 → w &&& row'.1 = row'.2 → row = row')

/-! ## All commands -/

/-- R70: a command ends in exactly one of two ways, with its frame: success writes `rd`, `STATUS` and `INFO`;
failure writes `STATUS` and `INFO` only. -/
def Obligations.CommandEndsInSuccessOrFailure : Prop :=
  ∀ (i : Instr) (s : State), ∃ t, exec i s = .next t ∧
    ((∃ x v, Completed s (dest i) x v t) ∨ (∃ k v, k ≠ .ok ∧ Failed s k v t))

/-- R13: a command is a pure function of its operands. Two states that agree on the source registers it names give
the same status, the same `INFO`, and on success the same result. -/
def Obligations.CommandDependsOnlyOnSources : Prop :=
  ∀ (i : Instr) (s s' : State), (∀ r ∈ sources i, s.reg r = s'.reg r) →
    ∃ t t', exec i s = .next t ∧ exec i s' = .next t' ∧ t.status = t'.status ∧ t.info = t'.info ∧
      (t.status = .ok → t.reg (dest i) = t'.reg (dest i))

/-- The frame of every command, seen from the host: whatever a legal or illegal read addresses, other than
`STATUS`, `INFO`, and the length and data window of the destination, reads after the command as before. -/
def Obligations.CommandLeavesOtherRegisterSpace : Prop :=
  ∀ (i : Instr) (s t : State) (off n : Nat), exec i s = .next t →
    ¬ (n = 4 ∧ off = 0x004) → ¬ (n = 4 ∧ off = 0x008) →
    ¬ (n = 4 ∧ off = 0x020 + 4 * (dest i).num) →
    ¬ (n = 1 ∧ 0x1000 * ((dest i).num + 1) ≤ off ∧ off < 0x1000 * ((dest i).num + 2)) →
    t.memRead off n = s.memRead off n

/-- R181: which commands raise which code. No command raises `MalformedBits`, and `IllegalCommand` comes from no
legal command. -/
def Obligations.CommandsRaiseOnlyTheirCodes : Prop :=
  ∀ (i : Instr) (s t : State), exec i s = .next t →
    t.status = .ok ∨
    (t.status = .frameNotFound ∧ ∃ a b c, i = .frmDec a b c) ∨
    (t.status = .checksumMismatch ∧ ((∃ a b c, i = .frmDec a b c) ∨ ∃ a b, i = .parChk a b)) ∨
    (t.status = .addressMismatch ∧ ∃ a b c, i = .frmDec a b c) ∨
    (t.status = .uncorrectableError ∧
      ∃ a b, i = .hamDec a b ∨ (∃ p, i = .hamDeci a b p) ∨ i = .crcRep a b ∨ i = .crcDec a b) ∨
    (t.status = .operandError ∧
      ∃ a b, i = .hamEnc a b ∨ i = .hamDec a b ∨ (∃ p, i = .hamDeci a b p) ∨ i = .hamSyn a b ∨
        (∃ p, i = .bvFlip a b p) ∨ i = .crcStep a b ∨ i = .crcRep a b ∨ i = .crcDec a b ∨
        i = .stfStuff a b ∨ i = .parGen a b ∨ (∃ c d, i = .frmEnc a b c d) ∨ i = .crcEnc a b) ∨
    (t.status = .noDivision ∧ ∃ a b, i = .crcStep a b)

/-! ## Bit-vector unit -/

/-- R81: BV.PAD8 appends fewer than eight 0 bits, up to a whole number of bytes, and always fits a register. -/
def Obligations.Pad8FillsUpTheLastByte : Prop :=
  ∀ (rd rs1 : VReg) (s : State), ∃ k, k < 8 ∧ ((s.reg rs1).length + k) % 8 = 0 ∧
    ((s.reg rs1).length ≤ Config.vmax → (s.reg rs1).length + k ≤ Config.vmax) ∧
    Succeeds (.bvPad8 rd rs1) s rd (s.reg rs1 ++ List.replicate k false) 0

/-- BV.PAD8 is the bit-level effect of `toBits(fromBits(x))`. -/
def Obligations.Pad8IsToBitsOfFromBits : Prop :=
  ∀ (rd rs1 : VReg) (s : State), Succeeds (.bvPad8 rd rs1) s rd (toBits (fromBits (s.reg rs1))) 0

/-- R82: the first bit becomes the last; the length does not change. -/
def Obligations.RotateLeftMovesFirstBitLast : Prop :=
  ∀ (rd rs1 : VReg) (s : State), ∃ y : BitSeq, Succeeds (.bvRol rd rs1) s rd y 0 ∧
    y.length = (s.reg rs1).length ∧
    ∀ i < y.length, y[i]? = (s.reg rs1)[(i + 1) % y.length]?

/-- R83: the last bit becomes the first; the length does not change. -/
def Obligations.RotateRightMovesLastBitFirst : Prop :=
  ∀ (rd rs1 : VReg) (s : State), ∃ y : BitSeq, Succeeds (.bvRor rd rs1) s rd y 0 ∧
    y.length = (s.reg rs1).length ∧
    ∀ i < y.length, y[(i + 1) % y.length]? = (s.reg rs1)[i]?

/-- R84: `t[i] = x[n-1-i]`, for any length. -/
def Obligations.ReverseReadsBackwards : Prop :=
  ∀ (rd rs1 : VReg) (s : State), ∃ y : BitSeq, Succeeds (.bvRev rd rs1) s rd y 0 ∧
    y.length = (s.reg rs1).length ∧
    ∀ i < y.length, y[i]? = (s.reg rs1)[y.length - 1 - i]?

/-- R85: the bit at the 0-based index is inverted and no other; an index at or beyond the length is refused. -/
def Obligations.FlipInvertsOneBit : Prop :=
  ∀ (rd rs1 : VReg) (p : Nat) (s : State),
    (p < (s.reg rs1).length → ∃ y : BitSeq, Succeeds (.bvFlip rd rs1 p) s rd y 0 ∧
      y.length = (s.reg rs1).length ∧
      ∀ i, y[i]? = if i = p then ((s.reg rs1)[i]?).map not else (s.reg rs1)[i]?) ∧
    (p ≥ (s.reg rs1).length → Raises (.bvFlip rd rs1 p) s .operandError 0)

/-- R86: the laws of rotation and reversal. -/
def Obligations.RotationLaws : Prop :=
  ∀ x : BitSeq, rotr (rotl x) = x ∧ rotl (rotr x) = x ∧
    rotlN x.length x = x ∧ rotrN x.length x = x ∧
    (∀ r, rotrN r (rotlN r x) = x) ∧ rev (rotl x) = rotr (rev x)

/-! ## Stuffing engine -/

/-- R105: STF.STUFF answers the stuffed sequence, or refuses it when it is longer than a register. -/
def Obligations.StuffAnswersOrExceedsCapacity : Prop :=
  ∀ (rd rs1 : VReg) (s : State),
    ((stuff (s.reg rs1)).length ≤ Config.vmax →
      Succeeds (.stfStuff rd rs1) s rd (stuff (s.reg rs1)) 0) ∧
    ((stuff (s.reg rs1)).length > Config.vmax → Raises (.stfStuff rd rs1) s .operandError 0)

/-- What `stuff` does, without its loop: a stuffed sequence gives the input back, every five consecutive 1s in it
are followed by a 0 (also at the end), it is at most `len + len/5` bits long, and a sequence with no run of
five 1s is unchanged (R102). -/
def Obligations.StuffedSequenceIsSafe : Prop :=
  ∀ x : BitSeq, unstuff (stuff x) = x ∧
    (∀ a b : BitSeq, stuff x = a ++ List.replicate 5 true ++ b → b.head? = some false) ∧
    (stuff x).length ≤ x.length + x.length / 5 ∧
    (¬ List.replicate 5 true <:+: x → stuff x = x)

/-- R104: the laws of stuffing (a) to (d). -/
def Obligations.StuffingLaws : Prop :=
  (∀ x : BitSeq, unstuff (stuff x) = x) ∧
  (∀ x : BitSeq, ¬ List.replicate 5 true <:+: x → stuff x = x ∧ unstuff x = x) ∧
  (∀ x : BitSeq, ¬ List.replicate 6 true <:+: stuff x ∧ ¬ FLAG <:+: stuff x) ∧
  (∀ y : BitSeq, stuff (unstuff y) = y ↔ ∃ x, y = stuff x) ∧
  (unstuff [true, true, true, true, true, false] = [true, true, true, true, true] ∧
    unstuff [true, true, true, true, true] = [true, true, true, true, true]) ∧
  (∀ p d s : BitSeq, frame p d s =
    withParity (FLAG ++ stuff d ++ FLAG ++ stuff s ++ FLAG ++ stuff p))

/-- R103, R106: STF.UNSTUFF keeps exactly the bits that are not a 0 immediately preceded, in the input, by five 1s. -/
def Obligations.UnstuffDeletesStuffedZeros : Prop :=
  ∀ (rd rs1 : VReg) (s : State), Succeeds (.stfUnstuff rd rs1) s rd
    (((List.range (s.reg rs1).length).filter fun i =>
        cell (s.reg rs1) i || decide (i < 5) ||
          !(cell (s.reg rs1) (i - 1) && cell (s.reg rs1) (i - 2) && cell (s.reg rs1) (i - 3) &&
            cell (s.reg rs1) (i - 4) && cell (s.reg rs1) (i - 5))).map (cell (s.reg rs1))) 0

/-! ## Parity accumulator -/

/-- R107: PAR.GEN appends the bit that makes the number of 1 bits even, or refuses for capacity. -/
def Obligations.ParGenMakesWeightEven : Prop :=
  ∀ (rd rs1 : VReg) (s : State),
    ((s.reg rs1).length + 1 ≤ Config.vmax →
      ∃ b, Succeeds (.parGen rd rs1) s rd (s.reg rs1 ++ [b]) 0 ∧
        (s.reg rs1 ++ [b]).count true % 2 = 0) ∧
    ((s.reg rs1).length + 1 > Config.vmax → Raises (.parGen rd rs1) s .operandError 0)

/-- R108: PAR.CHK strips the last bit of a non-empty sequence of even weight and rejects every other. -/
def Obligations.ParChkAcceptsEvenWeight : Prop :=
  ∀ (rd rs1 : VReg) (s : State),
    (s.reg rs1 ≠ [] → (s.reg rs1).count true % 2 = 0 →
      Succeeds (.parChk rd rs1) s rd (s.reg rs1).dropLast 0) ∧
    (s.reg rs1 = [] ∨ (s.reg rs1).count true % 2 = 1 →
      Raises (.parChk rd rs1) s .checksumMismatch 0)

/-! ## Framer -/

/-- R109, R110: FRM.ENC lays out flag, destination, flag, source, flag, payload and the bit that makes the weight
even, `25 + ...` bits in all, or refuses for capacity. -/
def Obligations.FrmEncLaysOutTheFrame : Prop :=
  ∀ (rd rs1 rs2 rs3 : VReg) (s : State), ∃ b : Bool,
    let F : BitSeq := [false, true, true, true, true, true, true, false]
    let f : BitSeq := F ++ stuff (s.reg rs2) ++ F ++ stuff (s.reg rs3) ++ F ++ stuff (s.reg rs1) ++ [b]
    f.count true % 2 = 0 ∧
    f.length = 25 + (stuff (s.reg rs2)).length + (stuff (s.reg rs3)).length + (stuff (s.reg rs1)).length ∧
    (f.length ≤ Config.vmax → Succeeds (.frmEnc rd rs1 rs2 rs3) s rd f 0) ∧
    (f.length > Config.vmax → Raises (.frmEnc rd rs1 rs2 rs3) s .operandError 0)

/-- R111: the scan finds only flags, in ascending order without overlap, and leftmost first: every occurrence of
the flag starts within the eight bits of a found one. The body of a frame has exactly three. -/
def Obligations.FlagscanIsLeftmostWithoutOverlap : Prop :=
  (∀ (B : BitSeq), (∀ i ∈ flagscan B, slice B i (i + 8) = FLAG) ∧
    (flagscan B).Pairwise (fun i j => i + 8 ≤ j) ∧
    (∀ j, slice B j (j + 8) = FLAG → ∃ i ∈ flagscan B, i ≤ j ∧ j < i + 8)) ∧
  (∀ p d s : BitSeq, flagscan (frameBody p d s) =
    [0, 8 + (stuff d).length, 16 + (stuff d).length + (stuff s).length])

/-- R112: FRM.DEC checks in the order of its steps: parity, then the number of flags, then the address; then it
answers the un-stuffed payload. -/
def Obligations.FrmDecChecksInOrder : Prop :=
  ∀ (rd rs1 rs2 : VReg) (s : State),
    let f := s.reg rs1
    let B := f.dropLast
    (f = [] ∨ f.count true % 2 = 1 → Raises (.frmDec rd rs1 rs2) s .checksumMismatch 0) ∧
    (f ≠ [] → f.count true % 2 = 0 → (flagscan B).length ≠ 3 →
      Raises (.frmDec rd rs1 rs2) s .frameNotFound (min (flagscan B).length 65535)) ∧
    (∀ f0 f1 f2, f ≠ [] → f.count true % 2 = 0 → flagscan B = [f0, f1, f2] →
      (unstuff (slice B (f0 + 8) f1) ≠ s.reg rs2 → Raises (.frmDec rd rs1 rs2) s .addressMismatch 0) ∧
      (unstuff (slice B (f0 + 8) f1) = s.reg rs2 →
        Succeeds (.frmDec rd rs1 rs2) s rd (unstuff (B.drop (f2 + 8))) 0))

/-- R113 (a), (b): a frame decodes to its payload for its destination, and is filtered for any other address. -/
def Obligations.FrameDecodesForItsAddressee : Prop :=
  ∀ (rd rs1 rs2 : VReg) (s : State) (p d src : BitSeq), s.reg rs1 = frame p d src →
    (s.reg rs2 = d → Succeeds (.frmDec rd rs1 rs2) s rd p 0) ∧
    (s.reg rs2 ≠ d → Raises (.frmDec rd rs1 rs2) s .addressMismatch 0)

/-- R113 (c), (d): a frame with an odd number of bits inverted anywhere, the trailing bit alone among them, is
rejected whatever the local address. -/
def Obligations.OddErrorsInFrameAreRejected : Prop :=
  ∀ (rd rs1 rs2 : VReg) (s : State) (p d src : BitSeq),
    (s.reg rs1).length = (frame p d src).length →
    (xorSeq (s.reg rs1) (frame p d src)).count true % 2 = 1 →
    Raises (.frmDec rd rs1 rs2) s .checksumMismatch 0

/-- R113 (e), by the commands themselves. FRM.ENC ends as PAR.GEN does on the concatenation of flags with what
STF.STUFF answers for each field, and refuses for capacity where STF.STUFF refuses a field. FRM.DEC rejects for
parity exactly where PAR.CHK does, and otherwise works on the sequence `B` that PAR.CHK answers: the flags are
counted in `B`, and the destination and payload are what STF.UNSTUFF answers for the fields cut from `B`. -/
def Obligations.FramerIsComposedOfItsUnits : Prop :=
  (∀ (rd rs1 rs2 rs3 r : VReg) (s u : State),
    u.reg r = FLAG ++ stuff (s.reg rs2) ++ FLAG ++ stuff (s.reg rs3) ++ FLAG ++ stuff (s.reg rs1) →
    ∃ t t', exec (.frmEnc rd rs1 rs2 rs3) s = .next t ∧ exec (.parGen rd r) u = .next t' ∧
      t.status = t'.status ∧ t.info = t'.info ∧ (t.status = .ok → t.reg rd = t'.reg rd)) ∧
  (∀ (rd rs1 rs2 rs3 r a b c : VReg) (s u : State) (p d src : BitSeq),
    Succeeds (.stfStuff a rs1) s a p 0 → Succeeds (.stfStuff b rs2) s b d 0 →
    Succeeds (.stfStuff c rs3) s c src 0 → u.reg r = FLAG ++ d ++ FLAG ++ src ++ FLAG ++ p →
    ∃ t t', exec (.frmEnc rd rs1 rs2 rs3) s = .next t ∧ exec (.parGen rd r) u = .next t' ∧
      t.status = t'.status ∧ t.info = t'.info ∧ (t.status = .ok → t.reg rd = t'.reg rd)) ∧
  (∀ (rd rs1 rs2 rs3 a r : VReg) (s : State), r ∈ [rs1, rs2, rs3] →
    Raises (.stfStuff a r) s .operandError 0 → Raises (.frmEnc rd rs1 rs2 rs3) s .operandError 0) ∧
  (∀ (rd rs1 rs2 : VReg) (s : State),
    Raises (.frmDec rd rs1 rs2) s .checksumMismatch 0 ↔ Raises (.parChk rd rs1) s .checksumMismatch 0) ∧
  (∀ (rd rs1 rs2 r : VReg) (s : State) (B : BitSeq), Succeeds (.parChk r rs1) s r B 0 →
    ((flagscan B).length ≠ 3 →
      Raises (.frmDec rd rs1 rs2) s .frameNotFound (min (flagscan B).length 65535)) ∧
    (∀ (f0 f1 f2 : Nat) (a a' b b' : VReg) (u v : State) (d p : BitSeq), flagscan B = [f0, f1, f2] →
      u.reg a' = slice B (f0 + 8) f1 → Succeeds (.stfUnstuff a a') u a d 0 →
      v.reg b' = slice B (f2 + 8) B.length → Succeeds (.stfUnstuff b b') v b p 0 →
      (d ≠ s.reg rs2 → Raises (.frmDec rd rs1 rs2) s .addressMismatch 0) ∧
      (d = s.reg rs2 → Succeeds (.frmDec rd rs1 rs2) s rd p 0)))

/-! ## Hamming -/

/-- R131, R133, R136: a 16-bit block becomes a 21-bit codeword: its data bits in order at the positions that are
no power of two, and an even number of 1 bits in each of the five check sets; any other length is refused. -/
def Obligations.HamEncBuildsTheCodeword : Prop :=
  ∀ (rd rs1 : VReg) (s : State),
    ((s.reg rs1).length = 16 → ∃ c : BitSeq, Succeeds (.hamEnc rd rs1) s rd c 0 ∧ c.length = 21 ∧
      ([2, 4, 5, 6, 8, 9, 10, 11, 12, 13, 14, 16, 17, 18, 19, 20].map (cell c)) = s.reg rs1 ∧
      ([1, 3, 5, 7, 9, 11, 13, 15, 17, 19, 21].countP fun q => cell c (q - 1)) % 2 = 0 ∧
      ([2, 3, 6, 7, 10, 11, 14, 15, 18, 19].countP fun q => cell c (q - 1)) % 2 = 0 ∧
      ([4, 5, 6, 7, 12, 13, 14, 15, 20, 21].countP fun q => cell c (q - 1)) % 2 = 0 ∧
      ([8, 9, 10, 11, 12, 13, 14, 15].countP fun q => cell c (q - 1)) % 2 = 0 ∧
      ([16, 17, 18, 19, 20, 21].countP fun q => cell c (q - 1)) % 2 = 0) ∧
    ((s.reg rs1).length ≠ 16 → Raises (.hamEnc rd rs1) s .operandError 0)

/-- R134, R139: HAM.SYN answers the syndrome as five bits, most significant first, and in `INFO`; it is the XOR of
the positions of the 1 bits. -/
def Obligations.HamSynAnswersPositionXor : Prop :=
  ∀ (rd rs1 : VReg) (s : State),
    ((s.reg rs1).length = 21 → ∃ y : BitSeq,
      Succeeds (.hamSyn rd rs1) s rd y (positionXor (s.reg rs1)) ∧ y.length = 5 ∧
      uint y = positionXor (s.reg rs1)) ∧
    ((s.reg rs1).length ≠ 21 → Raises (.hamSyn rd rs1) s .operandError 0)

/-- R134: every codeword has syndrome 0, and inverting the bit at position `q` of any word XORs `q` into it. -/
def Obligations.SyndromeNamesTheInvertedPosition : Prop :=
  (∀ d : BitSeq, d.length = 16 → syndrome (henc d) = 0) ∧
  (∀ (c : BitSeq) (q : Nat), c.length = 21 → 1 ≤ q → q ≤ 21 →
    syndrome (flip c (q - 1)) = syndrome c ^^^ q) ∧
  (∀ c : BitSeq, c.length = 21 → syndrome c = positionXor c ∧ syndrome c ≤ 31)

/-- R135, R137: HAM.DEC by the syndrome `z` of its word: 0, the data as they stand; 1 to 21, the data with the bit at
position `z` inverted; 22 or more, `UncorrectableError` with `INFO = z`; a word not 21 bits long is refused. -/
def Obligations.HamDecFollowsTheSyndrome : Prop :=
  ∀ (rd rs1 : VReg) (s : State),
    let c := s.reg rs1
    let z := positionXor c
    let data := fun w : BitSeq => [2, 4, 5, 6, 8, 9, 10, 11, 12, 13, 14, 16, 17, 18, 19, 20].map (cell w)
    (c.length = 21 → z = 0 → Succeeds (.hamDec rd rs1) s rd (data c) 0) ∧
    (c.length = 21 → 1 ≤ z → z ≤ 21 → Succeeds (.hamDec rd rs1) s rd (data (flip c (z - 1))) z) ∧
    (c.length = 21 → z ≥ 22 → Raises (.hamDec rd rs1) s .uncorrectableError z) ∧
    (c.length ≠ 21 → Raises (.hamDec rd rs1) s .operandError 0)

/-- R138: HAM.DECI refuses a wrong length or an index above 20, and otherwise does what BV.FLIP followed by
HAM.DEC does, leaving every register but `rd` as it was. Its completion is stated too, by the syndrome of the
word with the bit inverted. -/
def Obligations.HamDeciIsFlipThenDecode : Prop :=
  ∀ (rd rs1 : VReg) (p : Nat) (s : State),
    let c1 := flip (s.reg rs1) p
    let z := positionXor c1
    let data := fun w : BitSeq => [2, 4, 5, 6, 8, 9, 10, 11, 12, 13, 14, 16, 17, 18, 19, 20].map (cell w)
    ((s.reg rs1).length ≠ 21 ∨ p ≥ 21 → Raises (.hamDeci rd rs1 p) s .operandError 0) ∧
    ((s.reg rs1).length = 21 → p < 21 →
      (z = 0 → Succeeds (.hamDeci rd rs1 p) s rd (data c1) 0) ∧
      (1 ≤ z → z ≤ 21 → Succeeds (.hamDeci rd rs1 p) s rd (data (flip c1 (z - 1))) z) ∧
      (z ≥ 22 → Raises (.hamDeci rd rs1 p) s .uncorrectableError z) ∧
      ∃ t u u', exec (.hamDeci rd rs1 p) s = .next t ∧ exec (.bvFlip rd rs1 p) s = .next u ∧
        exec (.hamDec rd rd) u = .next u' ∧ t.status = u'.status ∧ t.info = u'.info ∧
        (t.status = .ok → t.reg rd = u'.reg rd))

/-- R140: HAM.DEC recovers the data of every 16-bit block under no error and under every single error, and `INFO`
names the position. That HAM.DECI on the codeword does the same is P-c of 95_test_vectors.md section 1.2, which
follows with R138; R140 does not say it. -/
def Obligations.HammingCorrectsEverySingleError : Prop :=
  ∀ (rd rs1 : VReg) (s : State) (d : BitSeq), d.length = 16 →
    (s.reg rs1 = henc d → Succeeds (.hamDec rd rs1) s rd d 0) ∧
    (∀ p, p ≤ 20 → s.reg rs1 = flip (henc d) p → Succeeds (.hamDec rd rs1) s rd d (p + 1)) ∧
    (∀ p, p ≤ 20 → s.reg rs1 = henc d → Succeeds (.hamDeci rd rs1 p) s rd d (p + 1))

/-- R141: two inverted bits are never corrected. With `z` the XOR of their positions, `z` is not 0; up to 21 HAM.DEC
reports `OK` with data that differ from `d` in one, two or three bits; from 22 on it raises
`UncorrectableError`. Of the 210 pairs 150 give `z` up to 21 and 60 more. -/
def Obligations.DoubleErrorsAreNeverCorrected : Prop :=
  (∀ (rd rs1 : VReg) (s : State) (d : BitSeq) (q1 q2 : Nat), d.length = 16 →
    1 ≤ q1 → q1 < q2 → q2 ≤ 21 → s.reg rs1 = flip (flip (henc d) (q1 - 1)) (q2 - 1) →
    (q1 ^^^ q2) ≠ 0 ∧
    ((q1 ^^^ q2) ≤ 21 → ∃ y : BitSeq, Succeeds (.hamDec rd rs1) s rd y (q1 ^^^ q2) ∧
      y.length = 16 ∧ 1 ≤ (xorSeq y d).count true ∧ (xorSeq y d).count true ≤ 3) ∧
    ((q1 ^^^ q2) ≥ 22 → Raises (.hamDec rd rs1) s .uncorrectableError (q1 ^^^ q2))) ∧
  (((List.range 21).flatMap fun i => (List.range i).map fun j => (i + 1) ^^^ (j + 1)).countP
      (fun z => decide (z ≤ 21)) = 150 ∧
   ((List.range 21).flatMap fun i => (List.range i).map fun j => (i + 1) ^^^ (j + 1)).countP
      (fun z => decide (z ≥ 22)) = 60)

/-! ## CRC -/

/-- R152, R157: CRC.MOD answers the remainder of the sliding-window division, always 3 bits, for any length, and
the remainder is linear. That the model's divider is the bit-serial one, proved equal here, is log entry 10. -/
def Obligations.CrcModEqualsSlidingWindow : Prop :=
  (∀ (rd rs1 : VReg) (s : State), Succeeds (.crcMod rd rs1) s rd (mod2Window (s.reg rs1)) 0) ∧
  (∀ D : BitSeq, (mod2Window D).length = 3 ∧ mod2 D = mod2Window D) ∧
  (∀ a b : BitSeq, a.length = b.length →
    mod2Window (xorSeq a b) = xorSeq (mod2Window a) (mod2Window b))

/-- CRC.MOD's result is the remainder of polynomial division over GF(2) by x^3 + x^2 + 1: the source differs from it
by a multiple of the generator, and it has degree below 3. -/
def Obligations.CrcModIsPolynomialRemainder : Prop :=
  let poly : BitSeq → Polynomial (ZMod 2) :=
    fun w => w.foldl (fun a b => a * Polynomial.X + (if b then 1 else 0)) 0
  ∀ (rd rs1 : VReg) (s : State), ∃ m : BitSeq, Succeeds (.crcMod rd rs1) s rd m 0 ∧ m.length = 3 ∧
    ∃ q, poly (s.reg rs1) = q * (Polynomial.X ^ 3 + Polynomial.X ^ 2 + 1) + poly m

/-- R153, R158: one division step on a 4-bit window. -/
def Obligations.CrcStepDividesOnce : Prop :=
  ∀ (rd rs1 : VReg) (s : State),
    (∀ b c d : Bool, s.reg rs1 = [true, b, c, d] → Succeeds (.crcStep rd rs1) s rd [false, !b, c, !d] 0) ∧
    (∀ b c d : Bool, s.reg rs1 = [false, b, c, d] → Raises (.crcStep rd rs1) s .noDivision 0) ∧
    ((s.reg rs1).length ≠ 4 → Raises (.crcStep rd rs1) s .operandError 0)

/-- R154, R159: CRC.ENC appends the three bits that make the word divide evenly, or refuses for capacity. -/
def Obligations.CrcEncDividesEvenly : Prop :=
  ∀ (rd rs1 : VReg) (s : State),
    ((s.reg rs1).length + 3 ≤ Config.vmax →
      ∃ m : BitSeq, Succeeds (.crcEnc rd rs1) s rd (s.reg rs1 ++ m) 0 ∧ m.length = 3 ∧
        m = mod2Window (s.reg rs1 ++ [false, false, false]) ∧
        mod2Window (s.reg rs1 ++ m) = [false, false, false]) ∧
    ((s.reg rs1).length + 3 > Config.vmax → Raises (.crcEnc rd rs1) s .operandError 0)

/-- R155, R160: CRC.REP takes the first number `r` of left rotations whose remainder has at most one 1 bit, XORs the
remainder into the last three bits, rotates back and answers `r` in `INFO`; if none of `0..n-1` qualifies it
raises `UncorrectableError` with the word length; a word shorter than 3 bits is refused. -/
def Obligations.CrcRepTakesFirstQualifyingRotation : Prop :=
  ∀ (rd rs1 : VReg) (s : State),
    let w := s.reg rs1
    let n := w.length
    let m := fun r => mod2Window (rotlN r w)
    (n < 3 → Raises (.crcRep rd rs1) s .operandError 0) ∧
    (∀ r, 3 ≤ n → r < n → (m r).count true ≤ 1 → (∀ q < r, (m q).count true ≥ 2) →
      Succeeds (.crcRep rd rs1) s rd
        (rotrN r ((rotlN r w).take (n - 3) ++ xorSeq ((rotlN r w).drop (n - 3)) (m r))) r) ∧
    (3 ≤ n → (∀ q < n, (m q).count true ≥ 2) → Raises (.crcRep rd rs1) s .uncorrectableError n)

/-- R156, R161: CRC.DEC searches as CRC.REP does and answers the repaired word less its last three bits; the status
and `INFO` are those of CRC.REP. -/
def Obligations.CrcDecStripsTheRepairedWord : Prop :=
  ∀ (rd rs1 : VReg) (s : State),
    let x := s.reg rs1
    let n := x.length
    let m := fun r => mod2Window (rotlN r x)
    (n < 3 → Raises (.crcDec rd rs1) s .operandError 0) ∧
    (∀ r, 3 ≤ n → r < n → (m r).count true ≤ 1 → (∀ q < r, (m q).count true ≥ 2) →
      Succeeds (.crcDec rd rs1) s rd
        ((rotrN r ((rotlN r x).take (n - 3) ++ xorSeq ((rotlN r x).drop (n - 3)) (m r))).take (n - 3)) r) ∧
    (3 ≤ n → (∀ q < n, (m q).count true ≥ 2) → Raises (.crcDec rd rs1) s .uncorrectableError n)

/-- R162: with no error, CRC.DEC of the encoded word answers the payload with `INFO = 0`. -/
def Obligations.CrcDecodesItsOwnEncoding : Prop :=
  ∀ (rd rs1 : VReg) (s : State) (p : BitSeq), s.reg rs1 = crcenc p →
    Succeeds (.crcDec rd rs1) s rd p 0

/-- R163 (a), (b): a single error is corrected at any length when it is in the check bits, at `r = 0`, and at any
position of a 7-bit word. -/
def Obligations.CrcCorrectsWhereItCan : Prop :=
  ∀ (rd rs1 : VReg) (s : State) (p : BitSeq) (i : Nat), i < p.length + 3 →
    s.reg rs1 = flip (crcenc p) i →
    (p.length ≤ i → Succeeds (.crcDec rd rs1) s rd p 0) ∧
    (p.length = 4 → ∃ r, r < 7 ∧ Succeeds (.crcDec rd rs1) s rd p r)

/-- R163: the guarantee fails elsewhere. For the 11-bit word of the payload 01100110, a flip at index 1 is answered
`OK` with a wrong payload and a flip at index 5 is reported. -/
def Obligations.CrcMiscorrectsElevenBitWords : Prop :=
  ∀ (rd rs1 : VReg) (s : State),
    let p : BitSeq := [false, true, true, false, false, true, true, false]
    (s.reg rs1 = flip (crcenc p) 1 → ∃ y, y ≠ p ∧ Succeeds (.crcDec rd rs1) s rd y 0) ∧
    (s.reg rs1 = flip (crcenc p) 5 → Raises (.crcDec rd rs1) s .uncorrectableError 11)

/-- R164: the search stops within `n` attempts; every 7-bit word is repaired; the shortest uncorrectable words are
the four of length 3, two of length 4 and 11111. -/
def Obligations.RepairTerminates : Prop :=
  (∀ (w y : BitSeq) (r : Nat), repair w = some (y, r) → r < w.length ∧ y.length = w.length) ∧
  (∀ w : BitSeq, w.length = 7 → ∃ y r, repair w = some (y, r) ∧ mod2Window y = [false, false, false]) ∧
  (∀ w : BitSeq, w.length = 3 → (repair w = none ↔ w.count true ≥ 2)) ∧
  (∀ w : BitSeq, w.length = 4 →
    (repair w = none ↔ w = [false, true, false, true] ∨ w = [true, false, true, false])) ∧
  (∀ w : BitSeq, w.length = 5 → (repair w = none ↔ w = [true, true, true, true, true]))

/-! ## Register space -/

/-- R47: a `VnLEN` write is ignored when its upper half is not 0 or the length exceeds `VMAX`; otherwise the length
becomes `L`, the cells below `L` keep their values and the others are 0; no other register changes. -/
def Obligations.LengthWriteTruncatesOrExtends : Prop :=
  ∀ (s : State) (r : VReg) (v : Nat) (rest : List HostEvent), v < 2 ^ 32 →
    s.pending = .write (0x020 + 4 * r.num) 4 v :: rest →
    (v ≥ 65536 ∨ v > Config.vmax → step s = .next { s with pending := rest, reply := none }) ∧
    (v < 65536 → v ≤ Config.vmax → ∃ t, step s = .next t ∧ (t.reg r).length = v ∧
      (∀ i < v, cell (t.reg r) i = cell (s.reg r) i) ∧ (∀ q, q ≠ r → t.reg q = s.reg q) ∧
      t.cmd = s.cmd ∧ t.status = s.status ∧ t.info = s.info ∧ t.pending = rest ∧ t.reply = none)

/-- R46: a data-window write stores the bits of its byte below the length, drops the rest, and changes neither the
length nor any other cell or register. -/
def Obligations.DataWriteStoresBelowTheLength : Prop :=
  ∀ (s : State) (r : VReg) (j v : Nat) (rest : List HostEvent), j < Config.vmax / 8 → v < 256 →
    s.pending = .write (0x1000 * (r.num + 1) + j) 1 v :: rest →
    ∃ t, step s = .next t ∧ (t.reg r).length = (s.reg r).length ∧
      (∀ k < 8, 8 * j + k < (s.reg r).length → cell (t.reg r) (8 * j + k) = v.testBit (7 - k)) ∧
      (∀ i, i < 8 * j ∨ 8 * j + 8 ≤ i → cell (t.reg r) i = cell (s.reg r) i) ∧
      (∀ q, q ≠ r → t.reg q = s.reg q) ∧
      t.cmd = s.cmd ∧ t.status = s.status ∧ t.info = s.info ∧ t.pending = rest ∧ t.reply = none

/-- R45: a data-window read answers the byte whose bit `7-k` is cell `8j+k`; nothing of CORE changes. -/
def Obligations.DataReadAnswersTheCells : Prop :=
  ∀ (s : State) (r : VReg) (j : Nat) (rest : List HostEvent), j < Config.vmax / 8 →
    s.pending = .read (0x1000 * (r.num + 1) + j) 1 :: rest →
    ∃ b, b < 256 ∧ step s = .next { s with pending := rest, reply := some b } ∧
      (∀ k < 8, b.testBit (7 - k) = cell (s.reg r) (8 * j + k)) ∧
      (∀ h : j < (fromBits (s.reg r)).length, b = ((fromBits (s.reg r))[j]).toNat) ∧
      ((fromBits (s.reg r)).length ≤ j → b = 0)

/-- What the control registers read as (R25 to R28), the number of every status code (R180), and that a read
changes nothing of CORE. -/
def Obligations.ControlRegistersReadBack : Prop :=
  ∀ (s : State) (rest : List HostEvent),
    (s.pending = .read 0x000 4 :: rest →
      step s = .next { s with pending := rest, reply := some s.cmd.toNat }) ∧
    (s.pending = .read 0x004 4 :: rest →
      step s = .next { s with pending := rest, reply := some s.status.number } ∧ s.status.number ≤ 8) ∧
    (s.pending = .read 0x008 4 :: rest →
      step s = .next { s with pending := rest, reply := some s.info.toNat }) ∧
    (∀ r : VReg, s.pending = .read (0x020 + 4 * r.num) 4 :: rest →
      step s = .next { s with pending := rest, reply := some (s.reg r).length }) ∧
    Code.number .ok = 0 ∧ Code.number .malformedBits = 1 ∧ Code.number .frameNotFound = 2 ∧
    Code.number .checksumMismatch = 3 ∧ Code.number .addressMismatch = 4 ∧
    Code.number .uncorrectableError = 5 ∧ Code.number .operandError = 6 ∧
    Code.number .illegalCommand = 7 ∧ Code.number .noDivision = 8

/-- R48: an illegal read returns 0 and an illegal write is ignored; neither changes any state of CORE. That this
covers offsets at or above 0x5000 and an access of width 0 is the model's reading (log entry 6, DEDUCED). -/
def Obligations.IllegalAccessHasNoEffect : Prop :=
  ∀ (s : State) (off n v : Nat) (rest : List HostEvent), ¬ LegalAccess off n →
    (s.pending = .read off n :: rest → step s = .next { s with pending := rest, reply := some 0 }) ∧
    (s.pending = .write off n v :: rest → step s = .next { s with pending := rest, reply := none })

/-- `STATUS`, `INFO` and `CMD` change only by a write of `CMD` or by a reset: no other event of the host, a write at
their own offsets included, touches `STATUS` or `INFO` (R26, R27, R49). -/
def Obligations.OnlyCommandsWriteTheOutcome : Prop :=
  ∀ (s t : State) (e : HostEvent) (rest : List HostEvent), s.pending = e :: rest → step s = .next t →
    e ≠ .reset → (∀ v, e ≠ .write 0x000 4 v) →
    (∀ addr v, e = .busWrite addr 4 v → addr ≠ Config.base) →
    t.status = s.status ∧ t.info = s.info ∧ t.cmd = s.cmd

/-- R40: an access at a bus address is the access at its offset from `BASE` for the 0x5000 bytes of the register
space; no other bus address reaches CORE (that the model then stops is its own choice, log entry 2). -/
def Obligations.BusAddressesAreOffsetsFromBase : Prop :=
  ∀ (s : State) (addr n v : Nat) (rest : List HostEvent),
    (∀ off, off < 0x5000 → addr = Config.base + off →
      (s.pending = .busRead addr n :: rest →
        step s = step { s with pending := .read off n :: rest }) ∧
      (s.pending = .busWrite addr n v :: rest →
        step s = step { s with pending := .write off n v :: rest })) ∧
    (addr < Config.base ∨ Config.base + 0x5000 ≤ addr →
      (s.pending = .busRead addr n :: rest → step s = .fault .outsideRegisterSpace) ∧
      (s.pending = .busWrite addr n v :: rest → step s = .fault .outsideRegisterSpace))

/-- R46, R56: the accesses that load a register, the length first and then each byte of `fromBits(x)`, have together
exactly the effect of `HostLoad`: the register holds `x`, whatever it held, and nothing else changed. -/
def Obligations.WindowLoadRefinesHostLoad : Prop :=
  ∀ (s : State) (r : VReg) (x : BitSeq) (rest : List HostEvent), x.length ≤ Config.vmax →
    s.pending = loadEvents r x ++ rest →
    Host.Core.run Sys2Proof.core (loadEvents r x).length s =
      .next { s.hostLoad r x with pending := rest, reply := none } ∧
    (s.hostLoad r x).hostRead r = x

/-- R10: the round trip between bytes and bits, and the length of `toBits`. -/
def Obligations.BytesSurviveTheRoundTrip : Prop :=
  ∀ b : List Byte, fromBits (toBits b) = b ∧ (toBits b).length = 8 * b.length
end

