-- ==== Sys2Proof/Laws/Bits.lean ====
section
/-! SUPPORT. The small lemmas of the bit-sequence operations: lengths, cells, parity, and which verdicts the
checking functions of the commands give. -/

namespace Sys2Proof.Machine

/-! ## Lengths -/

@[simp] theorem zeros_length (n : Nat) : (zeros n).length = n := List.length_replicate

@[simp] theorem rotl_length (s : BitSeq) : (rotl s).length = s.length := by
  cases s <;> simp [rotl]

@[simp] theorem rotr_length (s : BitSeq) : (rotr s).length = s.length := by
  simp only [rotr, slice, List.length_append, List.length_drop, List.length_take]
  omega

@[simp] theorem rotlN_length (r : Nat) (s : BitSeq) : (rotlN r s).length = s.length := by
  induction r generalizing s with
  | zero => rfl
  | succ r ih => rw [rotlN, ih, rotl_length]

@[simp] theorem rotrN_length (r : Nat) (s : BitSeq) : (rotrN r s).length = s.length := by
  induction r generalizing s with
  | zero => rfl
  | succ r ih => rw [rotrN, ih, rotr_length]

@[simp] theorem rev_length (s : BitSeq) : (rev s).length = s.length := List.length_reverse

@[simp] theorem flip_length (s : BitSeq) (p : Nat) : (flip s p).length = s.length := List.length_set

@[simp] theorem bitsN_length (n v : Nat) : (bitsN n v).length = n := by simp [bitsN]

@[simp] theorem mod2_length (D : BitSeq) : (mod2 D).length = 3 := rfl

@[simp] theorem xorSeq_length (a b : BitSeq) : (xorSeq a b).length = min a.length b.length := by
  simp [xorSeq]

theorem xorFinal_length (v : BitSeq) {m : BitSeq} (hm : m.length = 3) :
    (xorFinal v m).length = v.length := by
  simp only [xorFinal, slice, List.length_append, List.length_drop, List.length_take, xorSeq_length, hm]
  omega

theorem unstuffFrom_length_le (x : BitSeq) : ∀ c, (unstuffFrom c x).length ≤ x.length := by
  induction x with
  | nil => intro c; exact Nat.le_refl 0
  | cons b x ih =>
    intro c
    cases b with
    | true => exact Nat.succ_le_succ (ih (c + 1))
    | false =>
      unfold unstuffFrom
      split
      · exact Nat.le_succ_of_le (ih 0)
      · exact Nat.succ_le_succ (ih 0)

@[simp] theorem hstrip_length (c : BitSeq) : (hstrip c).length = 16 := rfl

/-! ## Cells (R21) -/

theorem cell_of_ge (s : BitSeq) {i : Nat} (h : s.length ≤ i) : cell s i = false := by
  simp [cell, List.getElem?_eq_none h]

theorem cell_of_lt (s : BitSeq) {i : Nat} (h : i < s.length) : cell s i = s[i] := by
  simp [cell, List.getElem?_eq_getElem h]

theorem cell_flip (s : BitSeq) {p : Nat} (i : Nat) (h : p < s.length) :
    cell (flip s p) i = if i = p then !cell s p else cell s i := by
  unfold flip
  simp only [cell, List.getD_eq_getElem?_getD, List.getElem?_set]
  split
  · next e => subst e; simp [h]
  · next e => rw [if_neg (Ne.symm e)]

/-! ## Parity (R9) -/

theorem foldl_xor (s : BitSeq) : ∀ a, s.foldl Bool.xor a = Bool.xor a (parity s) := by
  induction s with
  | nil => intro a; cases a <;> rfl
  | cons b s ih =>
    intro a
    show s.foldl Bool.xor (Bool.xor a b) = Bool.xor a (s.foldl Bool.xor (Bool.xor false b))
    rw [ih, ih (Bool.xor false b)]
    cases a <;> cases b <;> cases parity s <;> rfl

theorem parity_cons (b : Bool) (s : BitSeq) : parity (b :: s) = Bool.xor b (parity s) := by
  have h := foldl_xor s (Bool.xor false b)
  rw [Bool.false_xor] at h
  show s.foldl Bool.xor (Bool.xor false b) = _
  rw [Bool.false_xor, h]

/-- `parity(s) = weight(s) mod 2` (R9). -/
theorem parity_eq_weight (s : BitSeq) : parity s = decide (weight s % 2 = 1) := by
  induction s with
  | nil => rfl
  | cons b s ih =>
    rw [parity_cons, ih]
    unfold weight
    cases b
    · simp
    · rw [List.count_cons_self]
      have := Nat.mod_two_eq_zero_or_one (s.count true)
      rcases this with h | h <;> simp [h, Nat.add_mod]

/-! ## What the checking functions answer -/

theorem flipAt_of_lt {x : BitSeq} {p : Nat} (h : p < x.length) : flipAt x p = .success (flip x p) 0 := by
  rw [flipAt, if_neg (Nat.not_le.mpr h)]

theorem flipAt_of_ge {x : BitSeq} {p : Nat} (h : x.length ≤ p) : flipAt x p = operandError := by
  rw [flipAt, if_pos h]

theorem crcSearched_short {n : Nat} (h : n < 3) (f : Option (BitSeq × Nat)) :
    crcSearched n f = operandError := by
  unfold crcSearched; rw [if_pos h]

theorem crcSearched_none {n : Nat} (h : 3 ≤ n) :
    crcSearched n none = .failure .uncorrectableError n := by
  unfold crcSearched; rw [if_neg (Nat.not_lt.mpr h)]

theorem crcSearched_some {n : Nat} (h : 3 ≤ n) (y : BitSeq) (r : Nat) :
    crcSearched n (some (y, r)) = .success y r := by
  unfold crcSearched; rw [if_neg (Nat.not_lt.mpr h)]

end Sys2Proof.Machine
end

