-- ==== Sys2Proof/Laws/Decode.lean ====
section
/-! SUPPORT. The fields of a packed word, a word packed from its fields, and the register fields (R60, R62). -/

namespace Sys2Proof

/-- A register field read back names the same register (R62). -/
@[simp] theorem VReg.ofBits_bits (r : VReg) : VReg.ofBits r.bits = r := by cases r <;> decide

/-- Every 2-bit field names a register whose field it is (R62). -/
@[simp] theorem VReg.bits_ofBits (b : BitVec 2) : (VReg.ofBits b).bits = b := by revert b; decide

variable (o : BitVec 8) (a b c d : BitVec 2) (i : BitVec 16)

/-- Which field a bit of a packed word lies in (R60). -/
theorem getLsbD_packWord (k : Nat) :
    (packWord o a b c d i).getLsbD k =
      if k < 16 then i.getLsbD k
      else if k < 18 then d.getLsbD (k - 16)
      else if k < 20 then c.getLsbD (k - 18)
      else if k < 22 then b.getLsbD (k - 20)
      else if k < 24 then a.getLsbD (k - 22)
      else o.getLsbD (k - 24) := by
  unfold packWord
  simp only [BitVec.getLsbD_or, BitVec.getLsbD_shiftLeft, BitVec.getLsbD_setWidth]
  rcases Nat.lt_or_ge k 32 with hk | hk
  · interval_cases k <;> simp [BitVec.getLsbD_of_ge]
  · simp [Nat.not_lt.mpr hk, show ¬ k < 16 by omega, show ¬ k < 18 by omega, show ¬ k < 20 by omega,
      show ¬ k < 22 by omega, show ¬ k < 24 by omega, BitVec.getLsbD_of_ge _ k (show 16 ≤ k by omega),
      BitVec.getLsbD_of_ge o (k - 24) (show 8 ≤ k - 24 by omega)]

@[simp] theorem opcodeField_packWord : opcodeField (packWord o a b c d i) = o := by
  apply BitVec.eq_of_getLsbD_eq
  intro k hk
  rw [opcodeField, BitVec.getLsbD_extractLsb', getLsbD_packWord]
  interval_cases k <;> simp

@[simp] theorem rdField_packWord : rdField (packWord o a b c d i) = a := by
  apply BitVec.eq_of_getLsbD_eq
  intro k hk
  rw [rdField, BitVec.getLsbD_extractLsb', getLsbD_packWord]
  interval_cases k <;> simp

@[simp] theorem rs1Field_packWord : rs1Field (packWord o a b c d i) = b := by
  apply BitVec.eq_of_getLsbD_eq
  intro k hk
  rw [rs1Field, BitVec.getLsbD_extractLsb', getLsbD_packWord]
  interval_cases k <;> simp

@[simp] theorem rs2Field_packWord : rs2Field (packWord o a b c d i) = c := by
  apply BitVec.eq_of_getLsbD_eq
  intro k hk
  rw [rs2Field, BitVec.getLsbD_extractLsb', getLsbD_packWord]
  interval_cases k <;> simp

@[simp] theorem rs3Field_packWord : rs3Field (packWord o a b c d i) = d := by
  apply BitVec.eq_of_getLsbD_eq
  intro k hk
  rw [rs3Field, BitVec.getLsbD_extractLsb', getLsbD_packWord]
  interval_cases k <;> simp

@[simp] theorem immField_packWord : immField (packWord o a b c d i) = i := by
  apply BitVec.eq_of_getLsbD_eq
  intro k hk
  rw [immField, BitVec.getLsbD_extractLsb', getLsbD_packWord]
  simp [hk]

/-- A word is its six fields packed (R60). -/
theorem packWord_fields (w : Word) :
    packWord (opcodeField w) (rdField w) (rs1Field w) (rs2Field w) (rs3Field w) (immField w) = w := by
  apply BitVec.eq_of_getLsbD_eq
  intro k hk
  rw [getLsbD_packWord]
  unfold opcodeField rdField rs1Field rs2Field rs3Field immField
  simp only [BitVec.getLsbD_extractLsb']
  interval_cases k <;> simp

/-- Packed words are combined bit by bit field by field. -/
theorem packWord_and (o' : BitVec 8) (a' b' c' d' : BitVec 2) (i' : BitVec 16) :
    packWord o a b c d i &&& packWord o' a' b' c' d' i' =
      packWord (o &&& o') (a &&& a') (b &&& b') (c &&& c') (d &&& d') (i &&& i') := by
  apply BitVec.eq_of_getLsbD_eq
  intro k hk
  rw [BitVec.getLsbD_and, getLsbD_packWord, getLsbD_packWord, getLsbD_packWord]
  split_ifs <;> simp

end Sys2Proof
end

