-- ==== Sys2Proof/Laws/State.lean ====
section
/-! SUPPORT. One lemma per field per update of State, and the lemmas of the register accessors. -/

namespace Sys2Proof.Machine

/-! ## Register write (R23) -/

@[simp] theorem State.reg_setReg_same (s : State) (r : VReg) (x : BitSeq) : (s.setReg r x).reg r = x := by
  cases r <;> rfl

theorem State.reg_setReg_other (s : State) {r q : VReg} (x : BitSeq) (h : q ≠ r) :
    (s.setReg r x).reg q = s.reg q := by
  cases r <;> cases q <;> first | rfl | exact absurd rfl h

theorem State.reg_setReg (s : State) (r q : VReg) (x : BitSeq) :
    (s.setReg r x).reg q = if q = r then x else s.reg q := by
  split
  · next h => rw [h, State.reg_setReg_same]
  · next h => exact State.reg_setReg_other s x h

@[simp] theorem State.setReg_cmd (s : State) (r : VReg) (x : BitSeq) : (s.setReg r x).cmd = s.cmd := by
  cases r <;> rfl

@[simp] theorem State.setReg_status (s : State) (r : VReg) (x : BitSeq) :
    (s.setReg r x).status = s.status := by
  cases r <;> rfl

@[simp] theorem State.setReg_info (s : State) (r : VReg) (x : BitSeq) : (s.setReg r x).info = s.info := by
  cases r <;> rfl

@[simp] theorem State.setReg_pending (s : State) (r : VReg) (x : BitSeq) :
    (s.setReg r x).pending = s.pending := by
  cases r <;> rfl

@[simp] theorem State.setReg_reply (s : State) (r : VReg) (x : BitSeq) :
    (s.setReg r x).reply = s.reply := by
  cases r <;> rfl

/-! ## Outcome write (R26, R27) -/

@[simp] theorem State.setOutcome_reg (s : State) (c : Code) (v : Nat) (r : VReg) :
    (s.setOutcome c v).reg r = s.reg r := by
  cases r <;> rfl

@[simp] theorem State.setOutcome_status (s : State) (c : Code) (v : Nat) :
    (s.setOutcome c v).status = c := rfl

@[simp] theorem State.setOutcome_info (s : State) (c : Code) (v : Nat) :
    (s.setOutcome c v).info = BitVec.ofNat 32 v := rfl

@[simp] theorem State.setOutcome_cmd (s : State) (c : Code) (v : Nat) :
    (s.setOutcome c v).cmd = s.cmd := rfl

@[simp] theorem State.setOutcome_pending (s : State) (c : Code) (v : Nat) :
    (s.setOutcome c v).pending = s.pending := rfl

@[simp] theorem State.setOutcome_reply (s : State) (c : Code) (v : Nat) :
    (s.setOutcome c v).reply = s.reply := rfl

/-! ## Updates of `CMD` and of the host port -/

@[simp] theorem State.reg_setCmd (s : State) (w : Word) (r : VReg) : { s with cmd := w }.reg r = s.reg r := by
  cases r <;> rfl

@[simp] theorem State.reg_setReply (s : State) (v : Option Nat) (r : VReg) :
    { s with reply := v }.reg r = s.reg r := by
  cases r <;> rfl

@[simp] theorem State.reg_setPending (s : State) (p : List HostEvent) (r : VReg) :
    { s with pending := p }.reg r = s.reg r := by
  cases r <;> rfl

@[simp] theorem State.reg_takeEvent (s : State) (p : List HostEvent) (v : Option Nat) (r : VReg) :
    { s with pending := p, reply := v }.reg r = s.reg r := by
  cases r <;> rfl

/-! ## Reset (R30) -/

@[simp] theorem State.reset_reg (r : VReg) : State.reset.reg r = [] := by
  cases r <;> rfl

@[simp] theorem State.applyReset_reg (s : State) (r : VReg) : s.applyReset.reg r = [] := by
  cases r <;> rfl

@[simp] theorem State.applyReset_cmd (s : State) : s.applyReset.cmd = 0 := rfl

@[simp] theorem State.applyReset_status (s : State) : s.applyReset.status = .ok := rfl

@[simp] theorem State.applyReset_info (s : State) : s.applyReset.info = 0 := rfl

@[simp] theorem State.applyReset_pending (s : State) : s.applyReset.pending = s.pending := rfl

@[simp] theorem State.applyReset_reply (s : State) : s.applyReset.reply = none := rfl

end Sys2Proof.Machine
end

