-- ==== Sys2Proof/Laws/Ops.lean ====
section
/-! SUPPORT. What the shared operations can do, said once: completion, failure, the capacity check, one
command, one step; and the bounds of `VMAX`. -/

namespace Sys2Proof.Machine

/-! ## VMAX (R6, R41) -/

theorem vmax_eq : Config.vmax = 8 * Config.windowBytes := rfl

theorem vmax_div_eight : Config.vmax / 8 = Config.windowBytes := by
  rw [vmax_eq]; omega

theorem vmax_lower : 24 ≤ Config.vmax := by
  unfold Config.vmax Config.windowBytes; omega

theorem vmax_upper : Config.vmax ≤ 32768 := by
  unfold Config.vmax Config.windowBytes; omega

/-! ## Completion of a command (R70) -/

theorem succeed_completed (s : State) (rd : VReg) (x : BitSeq) (v : Nat) :
    Completed s rd x v (s.succeed rd x v) where
  result := by simp [State.succeed]
  others := fun r h => by simp [State.succeed, State.reg_setReg_other s x h]
  status := rfl
  info := rfl
  cmd := by simp [State.succeed]
  pending := by simp [State.succeed]
  reply := by simp [State.succeed]

theorem fail_failed (s : State) (k : Code) (v : Nat) : Failed s k v (s.fail k v) where
  regs := fun r => by simp [State.fail]
  status := rfl
  info := rfl
  cmd := rfl
  pending := rfl
  reply := rfl

theorem finish_success (s : State) (rd : VReg) (x : BitSeq) (v : Nat) :
    s.finish rd (.success x v) = s.succeed rd x v := rfl

theorem finish_failure (s : State) (rd : VReg) (k : Code) (v : Nat) :
    s.finish rd (.failure k v) = s.fail k v := rfl

/-- The capacity check has two outcomes (R71). -/
theorem ifFits_cases (x : BitSeq) :
    (x.length ≤ Config.vmax ∧ ifFits x = .success x 0) ∨
    (Config.vmax < x.length ∧ ifFits x = .failure .operandError 0) := by
  unfold ifFits
  split
  · next h => exact .inl ⟨h, rfl⟩
  · next h => exact .inr ⟨Nat.lt_of_not_le h, rfl⟩

/-! ## One command, one step -/

/-- Every command's meaning is the completion of some verdict on its destination. -/
theorem exec_finishes (i : Instr) (s : State) : ∃ v, exec i s = .next (s.finish (dest i) v) := by
  cases i <;> exact ⟨_, rfl⟩

/-- Everything one step can do: idle, reset, a read, a write, or the stop on a foreign bus address. -/
theorem step_cases (s : State) :
    (s.pending = [] ∧ step s = .next s) ∨
    (∃ e rest, s.pending = e :: rest ∧ step s = perform e { s with pending := rest, reply := none }) := by
  unfold step
  split
  · next h => exact .inl ⟨h, rfl⟩
  · next e rest h => exact .inr ⟨e, rest, h, rfl⟩

theorem step_of_pending {s : State} {e : HostEvent} {rest : List HostEvent} (h : s.pending = e :: rest) :
    step s = perform e { s with pending := rest, reply := none } := by
  unfold step
  rw [h]

theorem execute_ok {w : Word} {i : Instr} (s : State) (h : decode w = .ok i) :
    execute w s = exec i { s with cmd := w } := by
  unfold execute; rw [h]

theorem execute_error {w : Word} {e : IllegalReason} (s : State) (h : decode w = .error e) :
    execute w s = .next ({ s with cmd := w }.fail .illegalCommand 0) := by
  unfold execute; rw [h]

/-- A write has three outcomes: it executes a command, it writes a register, or it is ignored. -/
theorem performWrite_cases (off n v : Nat) (s : State) :
    (target off n = some .cmd ∧ performWrite off n v s = execute (BitVec.ofNat 32 v) s) ∨
    (∃ t, target off n = some t ∧ t ≠ .cmd ∧ performWrite off n v s = .next (s.writeTarget t v)) ∨
    (target off n = none ∧ performWrite off n v s = .next s) := by
  unfold performWrite
  split
  · next h => exact .inl ⟨h, rfl⟩
  · next t hne h => exact .inr (.inl ⟨t, h, fun hc => hne hc, rfl⟩)
  · next h => exact .inr (.inr ⟨h, rfl⟩)

/-! ## Register-space writes keep the capacity (R46, R47) -/

theorem setLength_length (x : BitSeq) (L : Nat) : (setLength x L).length = L := by
  simp only [setLength, zeros, List.length_append, List.length_take, List.length_replicate]
  omega

theorem setByte_length (x : BitSeq) (j : Nat) (v : Byte) : (setByte x j v).length = x.length := by
  simp [setByte]

end Sys2Proof.Machine
end

