-- ==== Sys2Proof/Laws/PerInstr.lean ====
section
/-! SUPPORT. The family CarriesItsRow: the word of every command carries the fixed bits of its row of the
opcode table, whatever its operands (R61, R64). -/

namespace Sys2Proof.Laws

theorem maskR2_fields : maskR2 = packWord 0xFF 0 0 3 3 0xFFFF := by decide
theorem maskR3_fields : maskR3 = packWord 0xFF 0 0 0 3 0xFFFF := by decide
theorem maskR4_fields : maskR4 = packWord 0xFF 0 0 0 0 0xFFFF := by decide
theorem maskI_fields : maskI = packWord 0xFF 0 0 3 3 0 := by decide

theorem opcode_and (op : BitVec 8) : op &&& 0xFF#8 = op := BitVec.and_allOnes (x := op)

theorem encodeR2_row (op : BitVec 8) (rd rs1 : VReg) :
    encodeR2 op rd rs1 &&& maskR2 = packWord op 0 0 0 0 0 := by
  rw [encodeR2, maskR2_fields, packWord_and]
  simp [opcode_and]

theorem encodeI_row (op : BitVec 8) (rd rs1 : VReg) (imm : Nat) :
    encodeI op rd rs1 imm &&& maskI = packWord op 0 0 0 0 0 := by
  rw [encodeI, maskI_fields, packWord_and]
  simp [opcode_and]

end Sys2Proof.Laws

namespace Sys2Proof.Laws.CarriesItsRow

/-- `encode i & mask == match` for the row of `i` (R61). -/
def Statement (i : Instr) : Prop := encode i &&& i.row.1 = i.row.2

theorem bvPad8 (rd rs1 : VReg) : Statement (.bvPad8 rd rs1) := (encodeR2_row _ rd rs1).trans rfl
theorem bvRol (rd rs1 : VReg) : Statement (.bvRol rd rs1) := (encodeR2_row _ rd rs1).trans rfl
theorem bvRor (rd rs1 : VReg) : Statement (.bvRor rd rs1) := (encodeR2_row _ rd rs1).trans rfl
theorem bvRev (rd rs1 : VReg) : Statement (.bvRev rd rs1) := (encodeR2_row _ rd rs1).trans rfl
theorem bvFlip (rd rs1 : VReg) (imm : Nat) : Statement (.bvFlip rd rs1 imm) :=
  (encodeI_row _ rd rs1 imm).trans rfl
theorem stfStuff (rd rs1 : VReg) : Statement (.stfStuff rd rs1) := (encodeR2_row _ rd rs1).trans rfl
theorem stfUnstuff (rd rs1 : VReg) : Statement (.stfUnstuff rd rs1) :=
  (encodeR2_row _ rd rs1).trans rfl
theorem parGen (rd rs1 : VReg) : Statement (.parGen rd rs1) := (encodeR2_row _ rd rs1).trans rfl
theorem parChk (rd rs1 : VReg) : Statement (.parChk rd rs1) := (encodeR2_row _ rd rs1).trans rfl

theorem frmEnc (rd rs1 rs2 rs3 : VReg) : Statement (.frmEnc rd rs1 rs2 rs3) := by
  show packWord 0x30 rd.bits rs1.bits rs2.bits rs3.bits 0 &&& maskR4 = _
  rw [maskR4_fields, packWord_and]
  simp [opcode_and]
  rfl

theorem frmDec (rd rs1 rs2 : VReg) : Statement (.frmDec rd rs1 rs2) := by
  show packWord 0x31 rd.bits rs1.bits rs2.bits 0 0 &&& maskR3 = _
  rw [maskR3_fields, packWord_and]
  simp [opcode_and]
  rfl

theorem hamEnc (rd rs1 : VReg) : Statement (.hamEnc rd rs1) := (encodeR2_row _ rd rs1).trans rfl
theorem hamDec (rd rs1 : VReg) : Statement (.hamDec rd rs1) := (encodeR2_row _ rd rs1).trans rfl
theorem hamDeci (rd rs1 : VReg) (imm : Nat) : Statement (.hamDeci rd rs1 imm) :=
  (encodeI_row _ rd rs1 imm).trans rfl
theorem hamSyn (rd rs1 : VReg) : Statement (.hamSyn rd rs1) := (encodeR2_row _ rd rs1).trans rfl
theorem crcMod (rd rs1 : VReg) : Statement (.crcMod rd rs1) := (encodeR2_row _ rd rs1).trans rfl
theorem crcStep (rd rs1 : VReg) : Statement (.crcStep rd rs1) := (encodeR2_row _ rd rs1).trans rfl
theorem crcEnc (rd rs1 : VReg) : Statement (.crcEnc rd rs1) := (encodeR2_row _ rd rs1).trans rfl
theorem crcRep (rd rs1 : VReg) : Statement (.crcRep rd rs1) := (encodeR2_row _ rd rs1).trans rfl
theorem crcDec (rd rs1 : VReg) : Statement (.crcDec rd rs1) := (encodeR2_row _ rd rs1).trans rfl

end Sys2Proof.Laws.CarriesItsRow
end

