-- ==== Sys2Proof/Tests/Slice0.lean ====
section
/-! SUPPORT. The model's own tests. Every expected value is copied from the spec's test vectors
(95_test_vectors.md, section named at each group) or from the rule cited; `witness_` theorems show that the
hypotheses of a statement can be met together. -/

namespace Sys2Proof.Tests

open Sys2Proof.Machine

/-! ## Helpers -/

/-- The `n`-bit sequence written as a decimal numeral whose digits are its bits: `bs 7 1011001`. -/
def bs (n v : Nat) : BitSeq := (List.range n).map fun i => v / 10 ^ (n - 1 - i) % 10 == 1

/-- The reset state with the four registers loaded (`HostLoad`, R56). -/
def st (a b c d : BitSeq) : State := { State.reset with v0 := a, v1 := b, v2 := c, v3 := d }

/-- The state with these host accesses pending. -/
def host (es : List HostEvent) (s : State) : State := { s with pending := es }

/-- The next state of an outcome. -/
def nextOf : Host.Outcome State Fault Refusal → Option State
  | .next t => some t
  | _ => none

/-- Register `r`, the status and `INFO` after a command. -/
def after (i : Instr) (s : State) (r : VReg) : Option (BitSeq × Code × Nat) :=
  (nextOf (exec i s)).map fun t => (t.reg r, t.status, t.info.toNat)

/-- The reply to one read. -/
def reads (s : State) (off n : Nat) : Option (Option Nat) :=
  (nextOf (step (host [.read off n] s))).map fun t => t.reply

/-- The register after one write. -/
def regAfter (s : State) (off n v : Nat) (r : VReg) : Option BitSeq :=
  (nextOf (step (host [.write off n v] s))).map fun t => t.reg r

/-! ## WellFormed: an immediate above 16 bits is refused, the greatest is not (R63) -/

theorem test_flip_imm_out_of_range_illformed : (Instr.bvFlip .v0 .v1 65536).wellFormed = false := by decide
theorem test_flip_imm_max_wellformed : (Instr.bvFlip .v0 .v1 65535).wellFormed = true := by decide
theorem test_deci_imm_out_of_range_illformed : (Instr.hamDeci .v0 .v1 65536).wellFormed = false := by decide

/-! ## Decoding: section 2.7, one word of every command -/

theorem test_decode_bv :
    decode 0x01400000 = .ok (.bvPad8 .v1 .v0) ∧ decode 0x02400000 = .ok (.bvRol .v1 .v0) ∧
    decode 0x03400000 = .ok (.bvRor .v1 .v0) ∧ decode 0x04400000 = .ok (.bvRev .v1 .v0) ∧
    decode 0x05400007 = .ok (.bvFlip .v1 .v0 7) := ⟨rfl, rfl, rfl, rfl, rfl⟩

theorem test_decode_stf_par_frm :
    decode 0x10400000 = .ok (.stfStuff .v1 .v0) ∧ decode 0x11400000 = .ok (.stfUnstuff .v1 .v0) ∧
    decode 0x20400000 = .ok (.parGen .v1 .v0) ∧ decode 0x21400000 = .ok (.parChk .v1 .v0) ∧
    decode 0x30C60000 = .ok (.frmEnc .v3 .v0 .v1 .v2) ∧ decode 0x31340000 = .ok (.frmDec .v0 .v3 .v1) :=
  ⟨rfl, rfl, rfl, rfl, rfl, rfl⟩

theorem test_decode_ham :
    decode 0x40400000 = .ok (.hamEnc .v1 .v0) ∧ decode 0x41400000 = .ok (.hamDec .v1 .v0) ∧
    decode 0x42400014 = .ok (.hamDeci .v1 .v0 20) ∧ decode 0x43400000 = .ok (.hamSyn .v1 .v0) :=
  ⟨rfl, rfl, rfl, rfl⟩

theorem test_decode_crc :
    decode 0x50400000 = .ok (.crcMod .v1 .v0) ∧ decode 0x51400000 = .ok (.crcStep .v1 .v0) ∧
    decode 0x52400000 = .ok (.crcEnc .v1 .v0) ∧ decode 0x53400000 = .ok (.crcRep .v1 .v0) ∧
    decode 0x54900000 = .ok (.crcDec .v2 .v1) := ⟨rfl, rfl, rfl, rfl, rfl⟩

theorem test_decode_illegal_opcodes :
    decode 0x00000000 = .error .unlistedOpcode ∧ decode 0xFFFFFFFF = .error .unlistedOpcode ∧
    decode 0x06000000 = .error .unlistedOpcode ∧ decode 0x12000000 = .error .unlistedOpcode ∧
    decode 0x44000000 = .error .unlistedOpcode ∧ decode 0x60000000 = .error .unlistedOpcode :=
  ⟨rfl, rfl, rfl, rfl, rfl, rfl⟩

theorem test_decode_illegal_fields :
    decode 0x02400001 = .error .unusedFieldNotZero ∧ decode 0x02440000 = .error .unusedFieldNotZero ∧
    decode 0x02410000 = .error .unusedFieldNotZero ∧ decode 0x31340001 = .error .unusedFieldNotZero ∧
    decode 0x31350000 = .error .unusedFieldNotZero ∧ decode 0x30C60001 = .error .unusedFieldNotZero ∧
    decode 0x05540003 = .error .unusedFieldNotZero := ⟨rfl, rfl, rfl, rfl, rfl, rfl, rfl⟩

theorem test_encode_words :
    encode (.frmEnc .v3 .v0 .v1 .v2) = 0x30C60000 ∧ encode (.bvFlip .v3 .v3 61) = 0x05F0003D ∧
    encode (.parChk .v3 .v2) = 0x21E00000 ∧ encode (.hamSyn .v2 .v0) = 0x43800000 := by decide

theorem test_asm : (Instr.frmEnc .v3 .v0 .v1 .v2).asm = "FRM.ENC V3, V0, V1, V2" ∧
    (Instr.bvFlip .v1 .v1 3).asm = "BV.FLIP V1, V1, #3" := ⟨rfl, rfl⟩

theorem test_table_word : decodeTableWord 32 0x52400000 = some (.crcEnc .v1 .v0) ∧
    decodeTableWord 32 0x52400001 = none := ⟨rfl, rfl⟩

/-! ## BV: section 2.1 -/

theorem test_pad8 : after (.bvPad8 .v1 .v0) (st (bs 9 011001100) [] [] []) .v1 =
    some (bs 16 0110011000000000, .ok, 0) := by decide
theorem test_pad8_empty : after (.bvPad8 .v0 .v0) (st [] [] [] []) .v0 = some ([], .ok, 0) := by decide
theorem test_rol : after (.bvRol .v1 .v0) (st (bs 7 1011001) [] [] []) .v1 =
    some (bs 7 0110011, .ok, 0) := by decide
theorem test_ror : after (.bvRor .v0 .v0) (st (bs 7 0011010) [] [] []) .v0 =
    some (bs 7 0001101, .ok, 0) := by decide
theorem test_rev : after (.bvRev .v3 .v2) (st [] [] (bs 7 1011001) []) .v3 =
    some (bs 7 1001101, .ok, 0) := by decide
theorem test_flip : after (.bvFlip .v1 .v0 3) (st (bs 7 1010001) [] [] []) .v1 =
    some (bs 7 1011001, .ok, 0) := by decide
theorem test_flip_at_length : after (.bvFlip .v1 .v0 7) (st (bs 7 1010001) [true] [] []) .v1 =
    some ([true], .operandError, 0) := by decide

/-! ## STF, PAR: sections 2.2, 2.3 -/

theorem test_stuff_ten_ones : after (.stfStuff .v1 .v0) (st (bs 10 1111111111) [] [] []) .v1 =
    some (bs 12 111110111110, .ok, 0) := by decide
theorem test_unstuff_run_of_six : after (.stfUnstuff .v1 .v0) (st (bs 9 011111101) [] [] []) .v1 =
    some (bs 8 01111111, .ok, 0) := by decide
theorem test_unstuff_one_zero : after (.stfUnstuff .v1 .v0) (st (bs 7 1111100) [] [] []) .v1 =
    some (bs 6 111110, .ok, 0) := by decide
theorem test_parGen : after (.parGen .v1 .v0) (st (bs 10 0111111001) [] [] []) .v1 =
    some (bs 11 01111110011, .ok, 0) := by decide
theorem test_parChk : after (.parChk .v1 .v0) (st (bs 11 01111110011) [] [] []) .v1 =
    some (bs 10 0111111001, .ok, 0) := by decide
theorem test_parChk_empty : after (.parChk .v1 .v0) (st [] [true] [] []) .v1 =
    some ([true], .checksumMismatch, 0) := by decide

/-! ## FRM: section 2.4 -/

set_option maxRecDepth 4000

/-- The 49-bit frame F1. -/
def frameF1 : BitSeq :=
  bs 49 0111111001000001011111100100001001111110011001100

theorem test_frmEnc_F1 (h : 64 ≤ Config.vmax) :
    after (.frmEnc .v3 .v0 .v1 .v2) (st (bs 8 01100110) (bs 8 01000001) (bs 8 01000010) []) .v3 =
      some (frameF1, .ok, 0) := by
  have hf : frame (bs 8 01100110) (bs 8 01000001) (bs 8 01000010) = frameF1 := by decide
  have hl : frameF1.length ≤ Config.vmax := Nat.le_trans (by decide) h
  show some ((State.finish _ _ (ifFits (frame (bs 8 01100110) (bs 8 01000001) (bs 8 01000010)))).reg _,
    (State.finish _ _ (ifFits (frame (bs 8 01100110) (bs 8 01000001) (bs 8 01000010)))).status,
    (State.finish _ _ (ifFits (frame (bs 8 01100110) (bs 8 01000001) (bs 8 01000010)))).info.toNat) = _
  rw [hf, ifFits, if_pos hl]
  rfl

theorem test_frmDec_F2 : after (.frmDec .v0 .v3 .v1) (st [] (bs 8 01000001) [] frameF1) .v0 =
    some (bs 8 01100110, .ok, 0) := by decide
theorem test_frmDec_two_flags :
    after (.frmDec .v0 .v3 .v1) (st [] [] [] (bs 18 011111100111111000)) .v0 =
      some ([], .frameNotFound, 2) := by decide

/-! ## HAM: section 2.5 -/

theorem test_hamEnc : after (.hamEnc .v1 .v0) (st (bs 16 0110011001101111) [] [] []) .v1 =
    some (bs 21 110011000110011001111, .ok, 0) := by decide
theorem test_hamEnc_d15 : after (.hamEnc .v1 .v0) (st (bs 16 0000000000000001) [] [] []) .v1 =
    some (bs 21 100100000000000100001, .ok, 0) := by decide
theorem test_hamDec_double : after (.hamDec .v1 .v0) (st (bs 21 111001000110011001111) [] [] []) .v1 =
    some (bs 16 1000011001101111, .ok, 6) := by decide
theorem test_hamDec_uncorrectable :
    after (.hamDec .v1 .v0) (st (bs 21 100011000110011001101) [] [] []) .v1 =
      some ([], .uncorrectableError, 22) := by decide
theorem test_hamDeci : after (.hamDeci .v1 .v0 20) (st (bs 21 110011000110011001111) [] [] []) .v1 =
    some (bs 16 0110011001101111, .ok, 21) := by decide
theorem test_hamDeci_21 : after (.hamDeci .v1 .v0 21) (st (bs 21 110011000110011001111) [] [] []) .v1 =
    some ([], .operandError, 0) := by decide
theorem test_hamSyn : after (.hamSyn .v2 .v0) (st (bs 21 110011000110011001110) [] [] []) .v2 =
    some (bs 5 10101, .ok, 21) := by decide

/-! ## CRC: section 2.6 and the source's scenario (section 1.1) -/

theorem test_crcMod_S1 : after (.crcMod .v1 .v0) (st (bs 11 11010101101) [] [] []) .v1 =
    some (bs 3 011, .ok, 0) := by decide
theorem test_crcMod_short : after (.crcMod .v1 .v0) (st (bs 2 11) [] [] []) .v1 =
    some (bs 3 011, .ok, 0) := by decide
theorem test_crcStep_S2 : after (.crcStep .v1 .v0) (st (bs 4 1010) [] [] []) .v1 =
    some (bs 4 0111, .ok, 0) := by decide
theorem test_crcStep_S3 : after (.crcStep .v1 .v0) (st (bs 4 0110) [true] [] []) .v1 =
    some ([true], .noDivision, 0) := by decide
theorem test_crcEnc_f : after (.crcEnc .v1 .v0) (st (bs 8 01100110) [] [] []) .v1 =
    some (bs 11 01100110010, .ok, 0) := by decide
theorem test_crcRep_S4 : after (.crcRep .v1 .v0) (st (bs 7 1011001) [] [] []) .v1 =
    some (bs 7 1010001, .ok, 4) := by decide
theorem test_crcRep_uncorrectable : after (.crcRep .v1 .v0) (st (bs 5 11111) [] [] []) .v1 =
    some ([], .uncorrectableError, 5) := by decide
theorem test_crcDec : after (.crcDec .v2 .v1) (st [] (bs 7 1011001) [] []) .v2 =
    some (bs 4 1010, .ok, 4) := by decide
theorem test_crcDec_wrong : after (.crcDec .v2 .v1) (st [] (bs 11 01100111010) [] []) .v2 =
    some (bs 8 01000111, .ok, 3) := by decide

/-! ## The host window: section 2.8, and program P1 -/

theorem test_len_write : regAfter (st [] [] [] []) 0x020 4 7 .v0 = some (bs 7 0000000) := by decide
theorem test_data_write_drops : regAfter (st (bs 7 0000000) [] [] []) 0x1000 1 0xA3 .v0 =
    some (bs 7 1010001) := by decide
theorem test_data_write_beyond_length : regAfter (st [] [] [] []) 0x1000 1 0xFF .v0 = some [] := by decide
theorem test_len_shorten : regAfter (st (bs 9 101000100) [] [] []) 0x020 4 3 .v0 =
    some (bs 3 101) := by decide
theorem test_len_upper_half : regAfter (st (bs 3 101) [] [] []) 0x020 4 0x00010000 .v0 =
    some (bs 3 101) := by decide
theorem test_data_read : reads (st [] (bs 7 1010001) [] []) 0x2000 1 = some (some 0xA2) := by decide
theorem test_illegal_reads : reads (st (bs 7 1010001) [] [] []) 0x1000 4 = some (some 0) ∧
    reads (st (bs 7 1010001) [] [] []) 0x021 4 = some (some 0) ∧
    reads (st [] [] [] []) 0x00C 4 = some (some 0) := by decide
/-- The codes of R180, read at the offset of `STATUS`. -/
theorem test_status_numbers :
    ([.ok, .malformedBits, .frameNotFound, .checksumMismatch, .addressMismatch, .uncorrectableError,
      .operandError, .illegalCommand, .noDivision] : List Code).map
        (fun k => reads { State.reset with status := k } 0x004 4) =
      [0, 1, 2, 3, 4, 5, 6, 7, 8].map fun n => some (some n) := by decide
theorem test_zero_word_is_illegal :
    (nextOf (step (host [.write 0x000 4 0] (st [] [] [] [])))).map
      (fun t => (t.cmd, t.status, t.info)) = some (0#32, .illegalCommand, 0#32) := by decide
theorem test_byte_write_to_cmd_ignored :
    nextOf (step (host [.write 0x000 1 0x52] (st [true] [] [] []))) = some (st [true] [] [] []) := by decide
theorem test_fetch_word : nextOf (step ((st (bs 4 1010) [] [] []).withFetchWord 32 0x52400000)) =
    some { st (bs 4 1010) (bs 7 1010001) [] [] with cmd := 0x52400000 } := by decide
theorem test_idle : nextOf (step State.reset) = some State.reset := by decide

/-! ## Witnesses: the hypotheses of each statement, met together, at the edges of their ranges -/

theorem inv_of_small {s : State} (h : ∀ r, (s.reg r).length ≤ 24)
    (o : OutcomeLegal s.status s.info.toNat) : Inv s :=
  ⟨fun r => Nat.le_trans (h r) vmax_lower, o⟩

theorem stuffFrom_length_ge (x : BitSeq) : ∀ c, x.length ≤ (stuffFrom c x).length := by
  induction x with
  | nil => intro c; exact Nat.le_refl 0
  | cons b x ih =>
    intro c
    cases b with
    | false => exact Nat.succ_le_succ (ih 0)
    | true =>
      unfold stuffFrom
      split
      · exact Nat.succ_le_succ (Nat.le_succ_of_le (ih 0))
      · exact Nat.succ_le_succ (ih (c + 1))

/-- A register of `VMAX` ones, the spec's example of a result that exceeds a register (section 2.2). -/
def fullOfOnes : State := st (List.replicate 5 true ++ List.replicate (Config.vmax - 5) true) [] [] []

theorem fullOfOnes_length : (fullOfOnes.reg .v0).length = Config.vmax := by
  have := vmax_lower
  simp only [fullOfOnes, st, State.reg, List.length_append, List.length_replicate]
  omega

theorem fullOfOnes_inv : Inv fullOfOnes := by
  refine ⟨fun r => ?_, Nat.zero_le _⟩
  cases r
  · exact Nat.le_of_eq fullOfOnes_length
  all_goals exact Nat.zero_le _

theorem witness_StepKeepsInvariant :
    Inv ((st (bs 4 1010) [] [] []).withFetchWord 32 0x52400000) ∧
    ∃ t, step ((st (bs 4 1010) [] [] []).withFetchWord 32 0x52400000) = .next t :=
  ⟨inv_of_small (fun r => by cases r <;> decide) (Nat.zero_le _), _, rfl⟩

theorem witness_ResetInput : (host [.reset] (st [true] [] [] [])).pending = .reset :: [] := rfl

theorem witness_StepExecutesWrittenCommand :
    (host [.write 0x000 4 (0x52400000#32).toNat] (st [true] [] [] [])).pending =
      .write 0x000 4 (0x52400000#32).toNat :: [] ∧
    decode 0x52400000 = .ok (.crcEnc .v1 .v0) ∧ decode 0x52400001 = .error .unusedFieldNotZero :=
  ⟨rfl, rfl, rfl⟩

theorem witness_AddressedRunsNeverStop :
    ∀ e ∈ (host [.reset, .read 0x002 4, .write 0x000 4 0, .busRead Config.base 4,
      .busWrite (Config.base + 0x4FFF) 1 0] State.reset).pending, Addressed e := by
  simp [host, Addressed]

theorem witness_DecodeInvertsEncode : (Instr.bvFlip .v3 .v2 65535).wellFormed = true := by decide

theorem witness_EncodeInvertsDecode : decode 0x05E0FFFF = .ok (.bvFlip .v3 .v2 65535) := rfl

theorem witness_DecodeAcceptsExactlyTheTable :
    (0x05E0FFFF#32 &&& maskI = 0x05000000) ∧ (maskI, 0x05000000) ∈ opcodeTable := by decide

theorem witness_CommandDependsOnlyOnSources :
    (∀ r ∈ sources (.frmDec .v3 .v0 .v1), (st [true] [false] [] []).reg r =
      { st [true] [false] [true] [true] with status := .noDivision }.reg r) ∧
    st [true] [false] [] [] ≠ { st [true] [false] [true] [true] with status := .noDivision } := by decide

theorem witness_CommandLeavesOtherRegisterSpace :
    (∃ t, exec (.crcEnc .v2 .v0) (st [true] [] [] []) = .next t) ∧
    (¬ ((1 : Nat) = 1 ∧ 0x1000 * ((dest (.crcEnc .v2 .v0)).num + 1) ≤ 0x2FFF ∧
      0x2FFF < 0x1000 * ((dest (.crcEnc .v2 .v0)).num + 2))) ∧
    (¬ ((1 : Nat) = 1 ∧ 0x1000 * ((dest (.crcEnc .v2 .v0)).num + 1) ≤ 0x4000 ∧
      0x4000 < 0x1000 * ((dest (.crcEnc .v2 .v0)).num + 2))) ∧
    ¬ ((4 : Nat) = 4 ∧ 0x024 = 0x020 + 4 * (dest (.crcEnc .v2 .v0)).num) :=
  ⟨⟨_, rfl⟩, by decide, by decide, by decide⟩

theorem witness_CommandsRaiseOnlyTheirCodes :
    ∃ t, exec (.crcStep .v1 .v0) (st (bs 4 0110) [] [] []) = .next t ∧ t.status = .noDivision :=
  ⟨_, rfl, rfl⟩

theorem witness_Pad8 : (fullOfOnes.reg .v0).length ≤ Config.vmax := Nat.le_of_eq fullOfOnes_length

theorem witness_Flip :
    0 < ((st [true, false] [] [] []).reg .v0).length ∧ 1 < ((st [true, false] [] [] []).reg .v0).length ∧
    2 ≥ ((st [true, false] [] [] []).reg .v0).length ∧ 0 ≥ ((st [] [] [] []).reg .v0).length := by decide

theorem witness_Stuff :
    (stuff ((st (bs 5 11111) [] [] []).reg .v0)).length ≤ Config.vmax ∧
    (stuff (fullOfOnes.reg .v0)).length > Config.vmax := by
  constructor
  · exact Nat.le_trans (by decide) vmax_lower
  · have h := stuffFrom_length_ge (List.replicate (Config.vmax - 5) true) 0
    have e : stuff (fullOfOnes.reg .v0) =
        bs 6 111110 ++ stuffFrom 0 (List.replicate (Config.vmax - 5) true) := rfl
    have v := vmax_lower
    rw [List.length_replicate] at h
    rw [e, List.length_append]
    have : (bs 6 111110).length = 6 := rfl
    omega

theorem witness_StuffedSequenceIsSafe :
    stuff (bs 5 11111) = [] ++ List.replicate 5 true ++ [false] ∧
    ¬ List.replicate 5 true <:+: bs 9 111101111 := by decide

theorem witness_StuffingLaws : ∃ x, bs 6 111110 = stuff x := ⟨bs 5 11111, rfl⟩

theorem witness_ParGen :
    ((st [] [] [] []).reg .v0).length + 1 ≤ Config.vmax ∧
    (fullOfOnes.reg .v0).length + 1 > Config.vmax :=
  ⟨Nat.le_trans (by decide) vmax_lower, by rw [fullOfOnes_length]; exact Nat.lt_succ_self _⟩

theorem witness_ParChk :
    ((st [false] [] [] []).reg .v0 ≠ [] ∧ ((st [false] [] [] []).reg .v0).count true % 2 = 0) ∧
    (st [] [] [] []).reg .v0 = [] ∧ ((st [true] [] [] []).reg .v0).count true % 2 = 1 := by decide

/-- Three empty operands give the shortest frame, 25 bits: an instance with `VMAX = 24` holds none, so the
witness that fits needs `25 ≤ VMAX`. -/
theorem witness_FrmEnc (h : 25 ≤ Config.vmax) :
    (frame [] [] []).length ≤ Config.vmax ∧
    (frame (fullOfOnes.reg .v0) [] []).length > Config.vmax := by
  constructor
  · exact Nat.le_trans (by decide) h
  · have g := stuffFrom_length_ge (fullOfOnes.reg .v0) 0
    rw [fullOfOnes_length] at g
    have e : frame (fullOfOnes.reg .v0) [] [] =
        FLAG ++ [] ++ FLAG ++ [] ++ FLAG ++ stuff (fullOfOnes.reg .v0) ++
          [parity (frameBody (fullOfOnes.reg .v0) [] [])] := rfl
    have f : FLAG.length = 8 := rfl
    rw [e]
    simp only [List.length_append, List.length_nil, List.length_singleton, f]
    unfold stuff
    omega

theorem witness_FlagscanIsLeftmostWithoutOverlap :
    slice (bs 15 011111101111110) 7 15 = FLAG ∧ flagscan (bs 15 011111101111110) = [0] := by decide

/-- The frame of three empty operands, F6 of section 2.4. -/
def frameF6 : BitSeq := bs 25 0111111001111110011111100

theorem witness_FrmDecChecksInOrder :
    ((st [] [] [] []).reg .v0 = [] ∧ ((st [true] [] [] []).reg .v0).count true % 2 = 1) ∧
    ((st [false] [] [] []).reg .v0 ≠ [] ∧ ((st [false] [] [] []).reg .v0).count true % 2 = 0 ∧
      (flagscan ((st [false] [] [] []).reg .v0).dropLast).length ≠ 3) ∧
    (frameF6 ≠ [] ∧ frameF6.count true % 2 = 0 ∧ flagscan frameF6.dropLast = [0, 8, 16] ∧
      unstuff (slice frameF6.dropLast (0 + 8) 8) = (st frameF6 [] [] []).reg .v1 ∧
      unstuff (slice frameF6.dropLast (0 + 8) 8) ≠ (st frameF6 [false] [] []).reg .v1) := by decide

theorem witness_FrameDecodesForItsAddressee :
    (st frameF6 [] [] []).reg .v0 = frame [] [] [] ∧ (st frameF6 [] [] []).reg .v1 = [] ∧
    (st frameF6 [false] [] []).reg .v1 ≠ [] := by decide

theorem witness_OddErrorsInFrameAreRejected :
    (flip frameF6 24).length = (frame [] [] []).length ∧
    (xorSeq (flip frameF6 24) (frame [] [] [])).count true % 2 = 1 := by decide

theorem witness_FramerEncode :
    (st (frameBody [true] [] [false]) [] [] []).reg .v0 =
      FLAG ++ stuff ((st [true] [] [false] []).reg .v1) ++ FLAG ++ stuff ((st [true] [] [false] []).reg .v2) ++
        FLAG ++ stuff ((st [true] [] [false] []).reg .v0) := rfl

theorem stfStuff_fits {s : State} (a r : VReg) (h : (stuff (s.reg r)).length ≤ Config.vmax) :
    Succeeds (.stfStuff a r) s a (stuff (s.reg r)) 0 := by
  refine ⟨_, rfl, ?_⟩
  rw [ifFits, if_pos h]
  exact succeed_completed s a _ 0

theorem stfStuff_exceeds {s : State} (a r : VReg) (h : (stuff (s.reg r)).length > Config.vmax) :
    Raises (.stfStuff a r) s .operandError 0 := by
  refine ⟨_, rfl, ?_⟩
  rw [ifFits, if_neg (Nat.not_le.mpr h)]
  exact fail_failed s _ 0

theorem witness_FramerEncodeByCommands :
    Succeeds (.stfStuff .v3 .v0) (st (bs 5 11111) [] [false] []) .v3 (bs 6 111110) 0 ∧
    Succeeds (.stfStuff .v3 .v1) (st (bs 5 11111) [] [false] []) .v3 [] 0 ∧
    Succeeds (.stfStuff .v3 .v2) (st (bs 5 11111) [] [false] []) .v3 [false] 0 ∧
    (st (FLAG ++ [] ++ FLAG ++ [false] ++ FLAG ++ bs 6 111110) [] [] []).reg .v0 =
      FLAG ++ [] ++ FLAG ++ [false] ++ FLAG ++ bs 6 111110 :=
  ⟨stfStuff_fits .v3 .v0 (Nat.le_trans (by decide) vmax_lower),
   stfStuff_fits .v3 .v1 (Nat.le_trans (by decide) vmax_lower),
   stfStuff_fits .v3 .v2 (Nat.le_trans (by decide) vmax_lower), rfl⟩

theorem witness_FramerEncodeExceeds :
    VReg.v0 ∈ [VReg.v0, VReg.v1, VReg.v2] ∧ Raises (.stfStuff .v3 .v0) fullOfOnes .operandError 0 :=
  ⟨by decide, stfStuff_exceeds .v3 .v0 witness_Stuff.2⟩

theorem witness_FramerDecode :
    Succeeds (.parChk .v3 .v0) (st frameF6 [] [] []) .v3 frameF6.dropLast 0 ∧
    flagscan frameF6.dropLast = [0, 8, 16] ∧
    (st [] [] [] []).reg .v0 = slice frameF6.dropLast (0 + 8) 8 ∧
    (st [] [] [] []).reg .v0 = slice frameF6.dropLast (16 + 8) frameF6.dropLast.length ∧
    Succeeds (.stfUnstuff .v1 .v0) (st [] [] [] []) .v1 [] 0 ∧
    ([] : BitSeq) = (st frameF6 [] [] []).reg .v1 ∧ ([] : BitSeq) ≠ (st frameF6 [false] [] []).reg .v1 :=
  ⟨⟨_, rfl, succeed_completed (st frameF6 [] [] []) .v3 frameF6.dropLast 0⟩, by decide, by decide, by decide,
   ⟨_, rfl, succeed_completed (st [] [] [] []) .v1 [] 0⟩, by decide, by decide⟩

theorem witness_FramerDecodeNoFlag :
    Succeeds (.parChk .v3 .v0) (st [false] [] [] []) .v3 [] 0 ∧ (flagscan []).length ≠ 3 :=
  ⟨⟨_, rfl, succeed_completed (st [false] [] [] []) .v3 [] 0⟩, by decide⟩

theorem witness_HamEnc :
    ((st (bs 16 1111111111111111) [] [] []).reg .v0).length = 16 ∧
    ((st (zeros 15) [] [] []).reg .v0).length ≠ 16 ∧ ((st (zeros 17) [] [] []).reg .v0).length ≠ 16 := by
  decide

theorem witness_HamSyn :
    ((st (zeros 21) [] [] []).reg .v0).length = 21 ∧ ((st (zeros 20) [] [] []).reg .v0).length ≠ 21 ∧
    ((st (zeros 22) [] [] []).reg .v0).length ≠ 21 := by decide

theorem witness_SyndromeNamesTheInvertedPosition :
    (zeros 16).length = 16 ∧ (zeros 21).length = 21 ∧ syndrome (flip (zeros 21) (1 - 1)) = 1 ∧
    syndrome (flip (zeros 21) (21 - 1)) = 21 := by decide

theorem witness_HamDecFollowsTheSyndrome :
    positionXor (bs 21 110011000110011001111) = 0 ∧ positionXor (bs 21 010011000110011001111) = 1 ∧
    positionXor (bs 21 110011000110011001110) = 21 ∧ positionXor (bs 21 100011000110011001101) = 22 ∧
    positionXor (bs 21 110011000010011001110) = 31 ∧ (bs 21 110011000110011001111).length = 21 := by decide

theorem witness_HamDeciIsFlipThenDecode :
    positionXor (flip (bs 21 110011000110011001110) 20) = 0 ∧
    positionXor (flip (bs 21 110011000110011001111) 0) = 1 ∧
    positionXor (flip (bs 21 110011000110011001111) 20) = 21 ∧
    positionXor (flip (bs 21 110011000110011001101) 1) ≥ 22 ∧
    ((st (zeros 20) [] [] []).reg .v0).length ≠ 21 := by decide

theorem witness_HammingCorrectsEverySingleError :
    (zeros 16).length = 16 ∧ (st (henc (zeros 16)) [] [] []).reg .v0 = henc (zeros 16) ∧
    (st (flip (henc (zeros 16)) 20) [] [] []).reg .v0 = flip (henc (zeros 16)) 20 := ⟨rfl, rfl, rfl⟩

theorem witness_DoubleErrorsAreNeverCorrected :
    (st (flip (flip (henc (zeros 16)) (5 - 1)) (16 - 1)) [] [] []).reg .v0 =
      flip (flip (henc (zeros 16)) (5 - 1)) (16 - 1) ∧ (5 ^^^ 16 : Nat) = 21 ∧
    (st (flip (flip (henc (zeros 16)) (2 - 1)) (20 - 1)) [] [] []).reg .v0 =
      flip (flip (henc (zeros 16)) (2 - 1)) (20 - 1) ∧ (2 ^^^ 20 : Nat) = 22 := ⟨rfl, rfl, rfl, rfl⟩

theorem witness_CrcModEqualsSlidingWindow : (bs 7 1010001).length = (bs 7 1011001).length := rfl

theorem witness_CrcStepDividesOnce :
    (st (bs 4 1010) [] [] []).reg .v0 = [true, false, true, false] ∧
    (st (bs 4 0110) [] [] []).reg .v0 = [false, true, true, false] ∧
    ((st (bs 5 10100) [] [] []).reg .v0).length ≠ 4 := by decide

theorem witness_CrcEncDividesEvenly :
    ((st [] [] [] []).reg .v0).length + 3 ≤ Config.vmax ∧ (fullOfOnes.reg .v0).length + 3 > Config.vmax := by
  refine ⟨Nat.le_trans (by decide) vmax_lower, ?_⟩
  rw [fullOfOnes_length]
  omega

theorem witness_CrcRepTakesFirstQualifyingRotation :
    (bs 2 10).length < 3 ∧
    (3 ≤ (bs 7 1011001).length ∧ 4 < (bs 7 1011001).length ∧
      (mod2Window (rotlN 4 (bs 7 1011001))).count true ≤ 1 ∧
      ∀ q < 4, (mod2Window (rotlN q (bs 7 1011001))).count true ≥ 2) ∧
    (3 ≤ (bs 3 011).length ∧ ∀ q < 3, (mod2Window (rotlN q (bs 3 011))).count true ≥ 2) := by decide

theorem witness_CrcDecStripsTheRepairedWord :
    (3 ≤ (bs 3 100).length ∧ 0 < (bs 3 100).length ∧
      (mod2Window (rotlN 0 (bs 3 100))).count true ≤ 1 ∧
      ∀ q < 0, (mod2Window (rotlN q (bs 3 100))).count true ≥ 2) ∧
    (3 ≤ (bs 4 0101).length ∧ ∀ q < 4, (mod2Window (rotlN q (bs 4 0101))).count true ≥ 2) := by decide

theorem witness_CrcDecodesItsOwnEncoding : (st (bs 3 000) [] [] []).reg .v0 = crcenc [] := by decide

theorem witness_CrcCorrectsWhereItCan :
    ((st (flip (crcenc (bs 4 1010)) 0) [] [] []).reg .v0 = flip (crcenc (bs 4 1010)) 0 ∧
      (bs 4 1010).length = 4) ∧
    ((st (flip (crcenc []) 2) [] [] []).reg .v0 = flip (crcenc []) 2 ∧ 2 < ([] : BitSeq).length + 3) := by
  decide

theorem witness_CrcMiscorrectsElevenBitWords :
    (st (bs 11 00100110010) [] [] []).reg .v0 = flip (crcenc (bs 8 01100110)) 1 ∧
    (st (bs 11 01100010010) [] [] []).reg .v0 = flip (crcenc (bs 8 01100110)) 5 := by decide

theorem witness_RepairTerminates : repair (bs 7 1011001) = some (bs 7 1010001, 4) := by decide

theorem witness_LengthWriteTruncatesOrExtends :
    (host [.write (0x020 + 4 * VReg.v3.num) 4 65536] (st [] [] [] [])).pending =
      .write (0x020 + 4 * VReg.v3.num) 4 65536 :: [] ∧
    Config.vmax + 1 > Config.vmax ∧ Config.vmax + 1 < 2 ^ 32 ∧ Config.vmax < 65536 := by
  have := vmax_upper
  exact ⟨rfl, by omega, by omega, by omega⟩

theorem witness_DataWriteStoresBelowTheLength :
    (host [.write (0x1000 * (VReg.v3.num + 1) + (Config.vmax / 8 - 1)) 1 255] (st [] [] [] [])).pending =
      .write (0x1000 * (VReg.v3.num + 1) + (Config.vmax / 8 - 1)) 1 255 :: [] ∧
    Config.vmax / 8 - 1 < Config.vmax / 8 ∧ 0 < Config.vmax / 8 := by
  have := vmax_lower
  exact ⟨rfl, by omega, by omega⟩

theorem witness_DataReadAnswersTheCells :
    (host [.read (0x1000 * (VReg.v0.num + 1) + 0) 1] (st [true] [] [] [])).pending =
      .read (0x1000 * (VReg.v0.num + 1) + 0) 1 :: [] ∧ 0 < Config.vmax / 8 ∧
    0 < (fromBits ((st [true] [] [] []).reg .v0)).length := by
  have := vmax_lower
  exact ⟨rfl, by omega, by decide⟩

theorem witness_ControlRegistersReadBack :
    (host [.read 0x000 4] State.reset).pending = .read 0x000 4 :: [] ∧
    (host [.read 0x004 4] State.reset).pending = .read 0x004 4 :: [] ∧
    (host [.read 0x008 4] State.reset).pending = .read 0x008 4 :: [] ∧
    (host [.read 0x020 4] State.reset).pending = .read (0x020 + 4 * VReg.v0.num) 4 :: [] ∧
    (host [.read 0x02C 4] State.reset).pending = .read (0x020 + 4 * VReg.v3.num) 4 :: [] :=
  ⟨rfl, rfl, rfl, rfl, rfl⟩

theorem witness_IllegalAccessHasNoEffect :
    ¬ LegalAccess 0x000 1 ∧ ¬ LegalAccess 0x1000 4 ∧ ¬ LegalAccess 0x00C 4 ∧ ¬ LegalAccess 0x0FFF 1 ∧
    ¬ LegalAccess 0x5000 1 ∧ ¬ LegalAccess (0x4000 + Config.vmax / 8) 1 := by
  have := vmax_upper
  refine ⟨?_, ?_, ?_, ?_, ?_, ?_⟩ <;> unfold LegalAccess <;> simp <;> intros <;> omega

theorem witness_OnlyCommandsWriteTheOutcome :
    ∃ t, step (host [.write 0x004 4 5] (st [true] [] [] [])) = .next t := ⟨_, rfl⟩

theorem witness_BusAddressesAreOffsetsFromBase :
    (0x4FFF < 0x5000 ∧ Config.base + 0x4FFF = Config.base + 0x4FFF) ∧
    Config.base + 0x5000 ≤ Config.base + 0x5000 := ⟨⟨by decide, rfl⟩, Nat.le_refl _⟩

theorem witness_WindowLoadRefinesHostLoad :
    (bs 9 101000101).length ≤ Config.vmax ∧
    (host (loadEvents .v2 (bs 9 101000101) ++ [.reset]) (st [] [] [true] [])).pending =
      loadEvents .v2 (bs 9 101000101) ++ [.reset] := ⟨Nat.le_trans (by decide) vmax_lower, rfl⟩

end Sys2Proof.Tests
end

section
/-! The conversion between bytes and bits (R10): the two round trips O16 and O59 rest on. -/

namespace Sys2Proof.Machine

/-! ## Numbers and their digits (R9) -/

theorem uint_concat (s : BitSeq) (b : Bool) : uint (s ++ [b]) = Nat.bit b (uint s) := by
  simp [uint, Nat.bit_val]

/-- `uint` reads index 0 as the most significant digit, so bit `k` of the number is the `k`-th bit from the end. -/
theorem testBit_uint (s : BitSeq) : ∀ k, (uint s).testBit k = cell s.reverse k := by
  induction s using List.reverseRecOn with
  | nil => intro k; simp [uint, cell]
  | append_singleton s b ih =>
    intro k
    rw [uint_concat, List.reverse_concat]
    cases k with
    | zero => simp [cell]
    | succ k => rw [Nat.testBit_bit_succ, ih]; simp [cell]

/-! ## The bits of a byte (R10) -/

@[simp] theorem byteBits_length (b : Byte) : (byteBits b).length = 8 := rfl

theorem getLsbD_byteAt (s : BitSeq) (j : Nat) {k : Nat} (hk : k < 8) :
    (byteAt s j).getLsbD (7 - k) = cell s (8 * j + k) := by
  have hpos : 7 - k < 8 := by omega
  rw [byteAt, BitVec.getLsbD_ofNat, testBit_uint, cell_of_lt _ (by simpa using hpos)]
  simp [hpos, show 7 - (7 - k) = k by omega]

theorem byteBits_byteAt (s : BitSeq) (j : Nat) :
    byteBits (byteAt s j) = (List.range 8).map fun k => cell s (8 * j + k) :=
  List.map_congr_left fun _ hk => getLsbD_byteAt s j (List.mem_range.mp hk)

theorem byteBits_injective : Function.Injective byteBits := by
  intro a b h
  have hbits : ∀ k < 8, a.getLsbD (7 - k) = b.getLsbD (7 - k) := fun k hk =>
    List.map_inj_left.mp h k (List.mem_range.mpr hk)
  apply BitVec.eq_of_getLsbD_eq
  intro i hi
  simpa [show 7 - (7 - i) = i by omega] using hbits (7 - i) (by omega)

/-! ## Byte strings (R10) -/

@[simp] theorem toBits_cons (b : Byte) (bs : List Byte) : toBits (b :: bs) = byteBits b ++ toBits bs :=
  List.flatMap_cons

@[simp] theorem toBits_length (bs : List Byte) : (toBits bs).length = 8 * bs.length := by
  induction bs with
  | nil => rfl
  | cons b bs ih => rw [toBits_cons, List.length_append, byteBits_length, ih, List.length_cons]; omega

theorem toBits_injective : Function.Injective toBits := by
  intro a
  induction a with
  | nil =>
    intro b h
    have hlen := congrArg List.length h
    simp only [toBits_length, List.length_nil] at hlen
    exact (List.eq_nil_of_length_eq_zero (by omega)).symm
  | cons x a ih =>
    intro b h
    cases b with
    | nil => simpa [byteBits] using congrArg List.length h
    | cons y b =>
      obtain ⟨hhead, htail⟩ := List.append_inj (by simpa using h) (byteBits_length x)
      rw [byteBits_injective hhead, ih htail]

/-- The bits of the first `n` bytes of a sequence are its first `8 * n` cells. -/
theorem toBits_map_byteAt (s : BitSeq) (n : Nat) :
    toBits ((List.range n).map (byteAt s)) = (List.range (8 * n)).map (cell s) := by
  induction n with
  | zero => rfl
  | succ n ih =>
    rw [List.range_succ, List.map_append, toBits, List.flatMap_append, ← toBits, ih, Nat.mul_succ,
      List.range_add, List.map_append]
    simp [byteBits_byteAt]

/-- Padding to whole bytes reads the cells of every byte the sequence reaches (R21, R81). -/
theorem pad8_eq_map_cell (x : BitSeq) : pad8 x = (List.range (8 * byteCount x.length)).map (cell x) := by
  have hlen : (pad8 x).length = 8 * byteCount x.length := by
    simp only [pad8, List.length_append, zeros_length, byteCount]; omega
  apply List.ext_getElem (by simpa using hlen)
  intro i hi _
  rcases Nat.lt_or_ge i x.length with hin | hout
  · simp [pad8, List.getElem_append_left hin, cell_of_lt x hin]
  · simp [pad8, zeros, List.getElem_append_right hout, cell_of_ge x hout]

theorem toBits_fromBits (x : BitSeq) : toBits (fromBits x) = pad8 x := by
  rw [fromBits, toBits_map_byteAt, pad8_eq_map_cell]

theorem pad8_of_whole_bytes {x : BitSeq} (h : x.length % 8 = 0) : pad8 x = x := by
  simp [pad8, zeros, h]

theorem fromBits_toBits (b : List Byte) : fromBits (toBits b) = b := by
  apply toBits_injective
  rw [toBits_fromBits, pad8_of_whole_bytes (by simp)]

end Sys2Proof.Machine
end

section
/-! A command as a function of its operands (R13): the verdict of each command, which reads the named registers
only, and whose failures never carry the code `OK`. -/

namespace Sys2Proof.Machine

/-- How a command ends when its registers hold `V` (R13, R70). -/
def verdictOf (i : Instr) (V : VReg → BitSeq) : Verdict :=
  match i with
  | .bvPad8 _ rs1 => .success (pad8 (V rs1)) 0
  | .bvRol _ rs1 => .success (rotl (V rs1)) 0
  | .bvRor _ rs1 => .success (rotr (V rs1)) 0
  | .bvRev _ rs1 => .success (rev (V rs1)) 0
  | .bvFlip _ rs1 imm => flipAt (V rs1) imm
  | .stfStuff _ rs1 => ifFits (stuff (V rs1))
  | .stfUnstuff _ rs1 => .success (unstuff (V rs1)) 0
  | .parGen _ rs1 => ifFits (withParity (V rs1))
  | .parChk _ rs1 => parityChecked (V rs1)
  | .frmEnc _ rs1 rs2 rs3 => ifFits (frame (V rs1) (V rs2) (V rs3))
  | .frmDec _ rs1 rs2 => frameDecoded (V rs1) (V rs2)
  | .hamEnc _ rs1 => hamEncoded (V rs1)
  | .hamDec _ rs1 => hamDecoded (V rs1)
  | .hamDeci _ rs1 imm => hamDecodedInjected (V rs1) imm
  | .hamSyn _ rs1 => hamSyndrome (V rs1)
  | .crcMod _ rs1 => .success (mod2 (V rs1)) 0
  | .crcStep _ rs1 => crcStepped (V rs1)
  | .crcEnc _ rs1 => ifFits (crcenc (V rs1))
  | .crcRep _ rs1 => crcSearched (V rs1).length (repair (V rs1))
  | .crcDec _ rs1 => crcSearched (V rs1).length (crcdec (V rs1))

/-- Executing a command completes its verdict on its destination. -/
theorem exec_eq_finish (i : Instr) (s : State) :
    exec i s = .next (s.finish (dest i) (verdictOf i s.reg)) := by
  cases i <;> rfl

theorem succeeds_of_verdictOf {i : Instr} {s : State} {x : BitSeq} {v : Nat}
    (h : verdictOf i s.reg = .success x v) : Succeeds i s (dest i) x v :=
  ⟨_, exec_eq_finish i s, h ▸ succeed_completed s (dest i) x v⟩

/-- The verdict reads no register but the sources of the command (R13, R69). -/
theorem verdictOf_congr {i : Instr} {V W : VReg → BitSeq} (h : ∀ r ∈ sources i, V r = W r) :
    verdictOf i V = verdictOf i W := by
  cases i <;> simp only [sources, List.forall_mem_cons] at h <;> simp only [verdictOf, h]

/-! ## No failure carries the code `OK` (R70) -/

/-- The verdict is a success, or a failure whose code is not `OK`. -/
def Verdict.Proper : Verdict → Prop
  | .success _ _ => True
  | .failure k _ => k ≠ .ok

@[simp] theorem Verdict.proper_success (x : BitSeq) (v : Nat) : (Verdict.success x v).Proper := trivial

@[simp] theorem Verdict.proper_failure (k : Code) (v : Nat) : (Verdict.failure k v).Proper ↔ k ≠ .ok := Iff.rfl

@[simp] theorem operandError_proper : operandError.Proper := by simp [operandError]

@[simp] theorem ifFits_proper (x : BitSeq) : (ifFits x).Proper := by
  unfold ifFits; split <;> simp

@[simp] theorem flipAt_proper (x : BitSeq) (p : Nat) : (flipAt x p).Proper := by
  unfold flipAt; split <;> simp

@[simp] theorem parityChecked_proper (x : BitSeq) : (parityChecked x).Proper := by
  unfold parityChecked; split_ifs <;> simp

@[simp] theorem frameDecoded_proper (f a : BitSeq) : (frameDecoded f a).Proper := by
  unfold frameDecoded
  dsimp only
  split
  · simp
  · split
    · split_ifs <;> simp
    · simp

@[simp] theorem hamEncoded_proper (d : BitSeq) : (hamEncoded d).Proper := by
  unfold hamEncoded; split <;> simp

@[simp] theorem hamDecoded_proper (c : BitSeq) : (hamDecoded c).Proper := by
  unfold hamDecoded
  split
  · simp
  · split <;> simp

@[simp] theorem hamDecodedInjected_proper (c : BitSeq) (p : Nat) : (hamDecodedInjected c p).Proper := by
  unfold hamDecodedInjected; split_ifs <;> simp

@[simp] theorem hamSyndrome_proper (c : BitSeq) : (hamSyndrome c).Proper := by
  unfold hamSyndrome; split <;> simp

@[simp] theorem crcStepped_proper (w : BitSeq) : (crcStepped w).Proper := by
  unfold crcStepped
  split
  · simp
  · split <;> simp

@[simp] theorem crcSearched_proper (n : Nat) (found : Option (BitSeq × Nat)) : (crcSearched n found).Proper := by
  unfold crcSearched
  split
  · simp
  · split <;> simp

theorem verdictOf_proper (i : Instr) (V : VReg → BitSeq) : (verdictOf i V).Proper := by
  cases i <;> simp [verdictOf]

/-- One verdict completed in two states writes the same outcome, and the same result where it is a success. -/
theorem finish_agrees {v : Verdict} (hv : v.Proper) (rd : VReg) (s s' : State) :
    (s.finish rd v).status = (s'.finish rd v).status ∧ (s.finish rd v).info = (s'.finish rd v).info ∧
      ((s.finish rd v).status = .ok → (s.finish rd v).reg rd = (s'.finish rd v).reg rd) := by
  cases v with
  | success x n => exact ⟨rfl, rfl, fun _ => by simp [State.finish, State.succeed]⟩
  | failure k n => exact ⟨rfl, rfl, fun hok => absurd hok hv⟩

end Sys2Proof.Machine
end

section
open Sys2Proof Sys2Proof.Machine

/-- Settles O12: both states complete one verdict, since it reads the source registers only. -/
theorem commandDependsOnlyOnSources : Obligations.CommandDependsOnlyOnSources := by
  intro i s s' h
  have hv : verdictOf i s.reg = verdictOf i s'.reg := verdictOf_congr h
  exact ⟨_, _, hv ▸ exec_eq_finish i s, exec_eq_finish i s', finish_agrees (verdictOf_proper i s'.reg) _ s s'⟩

/-- Settles O16: both are the cells of the register over its whole bytes. -/
theorem pad8IsToBitsOfFromBits : Obligations.Pad8IsToBitsOfFromBits := by
  intro rd rs1 s
  rw [toBits_fromBits]
  exact succeeds_of_verdictOf (i := .bvPad8 rd rs1) rfl

/-- Settles O59: the bits of `fromBits (toBits b)` are those of `b` unpadded, and `toBits` is injective. -/
theorem bytesSurviveTheRoundTrip : Obligations.BytesSurviveTheRoundTrip :=
  fun b => ⟨fromBits_toBits b, toBits_length b⟩
end

section
/-! The register space (R40 to R50): the map and its inverse, what a bus access is, and what the reads and the
writes that start no command leave unchanged. -/

namespace Sys2Proof.Machine

/-! ## The register map and its inverse (R41 to R43) -/

/-- The offset at which a target stands (R41). -/
def Target.offset : Target → Nat
  | .cmd => 0x0000
  | .status => 0x0004
  | .info => 0x0008
  | .len r => lenOffset r
  | .data r j => dataOffset r j

/-- The width in bytes of a legal access to a target (R42, R43). -/
def Target.width : Target → Nat
  | .data _ _ => 1
  | _ => 4

/-- A byte of a data window is there when it lies below `VMAX/8` (R41). -/
def Target.Present : Target → Prop
  | .data _ j => j < Config.windowBytes
  | _ => True

theorem windowBytes_le : Config.windowBytes ≤ 0x1000 := by
  have hmax := vmax_upper
  rw [vmax_eq] at hmax
  omega

theorem wordTarget_some {off : Nat} {x : Target} (h : wordTarget off = some x) :
    x.width = 4 ∧ off = x.offset ∧ x.Present := by
  unfold wordTarget at h
  split at h <;> cases h <;> exact ⟨rfl, rfl, trivial⟩

theorem windowReg_some {q : Nat} {r : VReg} (h : windowReg q = some r) : q = r.num + 1 := by
  unfold windowReg at h
  split at h <;> cases h <;> rfl

@[simp] theorem windowReg_num (r : VReg) : windowReg (r.num + 1) = some r := by
  cases r <;> rfl

theorem byteTarget_some {off : Nat} {x : Target} (h : byteTarget off = some x) :
    x.width = 1 ∧ off = x.offset ∧ x.Present := by
  unfold byteTarget at h
  split at h
  · next r hr =>
    have hq := windowReg_some hr
    split at h
    · next hj =>
      cases h
      exact ⟨rfl, by simp only [Target.offset, dataOffset]; omega, hj⟩
    · cases h
  · cases h

theorem byteTarget_dataOffset (r : VReg) {j : Nat} (hj : j < Config.windowBytes) :
    byteTarget (dataOffset r j) = some (.data r j) := by
  have hj' : j < 0x1000 := hj.trans_le windowBytes_le
  have hdiv : dataOffset r j / 0x1000 = r.num + 1 := by unfold dataOffset; omega
  have hmod : dataOffset r j % 0x1000 = j := by unfold dataOffset; omega
  simp [byteTarget, hdiv, hmod, hj]

theorem target_offset {x : Target} (h : x.Present) : target x.offset x.width = some x := by
  cases x with
  | cmd => rfl
  | status => rfl
  | info => rfl
  | len r => cases r <;> rfl
  | data r j => exact byteTarget_dataOffset r h

/-- A legal access addresses the target that stands at its offset and has its width (R41 to R43). -/
theorem target_eq_some_iff {off n : Nat} {x : Target} :
    target off n = some x ↔ n = x.width ∧ off = x.offset ∧ x.Present := by
  constructor
  · intro h
    unfold target at h
    split_ifs at h with h4 h1
    · obtain ⟨hwidth, hx⟩ := wordTarget_some h
      exact ⟨h4.trans hwidth.symm, hx⟩
    · obtain ⟨hwidth, hx⟩ := byteTarget_some h
      exact ⟨h1.trans hwidth.symm, hx⟩
  · rintro ⟨rfl, rfl, hpresent⟩
    exact target_offset hpresent

theorem target_eq_cmd_iff {off n : Nat} : target off n = some .cmd ↔ n = 4 ∧ off = 0 := by
  simp [target_eq_some_iff, Target.width, Target.offset, Target.Present]

/-! ## Bus addresses (R40) -/

theorem busOffset_some {addr off : Nat} (h : busOffset addr = some off) : addr = Config.base + off := by
  unfold busOffset at h
  split at h
  · next hin =>
    have hoff := Option.some.inj h
    omega
  · cases h

theorem perform_busRead_cases (addr n : Nat) (s : State) :
    (∃ off, busOffset addr = some off ∧ perform (.busRead addr n) s = performRead off n s) ∨
    (busOffset addr = none ∧ perform (.busRead addr n) s = .fault .outsideRegisterSpace) := by
  cases h : busOffset addr with
  | none => exact .inr ⟨rfl, by simp only [perform, h]⟩
  | some off => exact .inl ⟨off, rfl, by simp only [perform, h]⟩

theorem perform_busWrite_cases (addr n v : Nat) (s : State) :
    (∃ off, busOffset addr = some off ∧ perform (.busWrite addr n v) s = performWrite off n v s) ∨
    (busOffset addr = none ∧ perform (.busWrite addr n v) s = .fault .outsideRegisterSpace) := by
  cases h : busOffset addr with
  | none => exact .inr ⟨rfl, by simp only [perform, h]⟩
  | some off => exact .inl ⟨off, rfl, by simp only [perform, h]⟩

/-! ## Reads -/

theorem memRead_offset (s : State) {x : Target} (h : x.Present) :
    s.memRead x.offset x.width = s.readTarget x := by
  rw [State.memRead, target_offset h]

/-- What a read answers does not depend on the model's own view of the host port. -/
@[simp] theorem memRead_takeEvent (s : State) (p : List HostEvent) (a : Option Nat) (off n : Nat) :
    { s with pending := p, reply := a }.memRead off n = s.memRead off n := by
  unfold State.memRead
  split
  · next x _ => cases x <;> simp [State.readTarget, State.statusWord]
  · rfl

/-- A read answers its number and changes nothing of CORE (R49). -/
theorem step_read {s : State} {off n : Nat} {rest : List HostEvent} (h : s.pending = .read off n :: rest) :
    step s = .next { s with pending := rest, reply := some (s.memRead off n) } := by
  rw [step_of_pending h, perform, performRead, memRead_takeEvent]

theorem step_readTarget {s : State} {x : Target} {rest : List HostEvent} (hx : x.Present)
    (h : s.pending = .read x.offset x.width :: rest) :
    step s = .next { s with pending := rest, reply := some (s.readTarget x) } := by
  rw [step_read h, memRead_offset s hx]

theorem statusWord_toNat (s : State) : s.statusWord.toNat = s.status.number := by
  unfold State.statusWord
  cases s.status <;> rfl

theorem Code.number_le (k : Code) : k.number ≤ 8 := by
  cases k <;> decide

/-! ## Writes that start no command (R46, R47, R49) -/

/-- `STATUS`, `INFO` and `CMD` are as they were. -/
def SameOutcome (s t : State) : Prop := t.status = s.status ∧ t.info = s.info ∧ t.cmd = s.cmd

theorem sameOutcome_setReg (s : State) (r : VReg) (x : BitSeq) : SameOutcome s (s.setReg r x) := by
  simp [SameOutcome]

theorem sameOutcome_writeTarget (s : State) (x : Target) (v : Nat) : SameOutcome s (s.writeTarget x v) := by
  cases x with
  | cmd => exact ⟨rfl, rfl, rfl⟩
  | status => exact ⟨rfl, rfl, rfl⟩
  | info => exact ⟨rfl, rfl, rfl⟩
  | len r =>
    show SameOutcome s (s.writeLen r _)
    unfold State.writeLen
    split
    · exact ⟨rfl, rfl, rfl⟩
    · exact sameOutcome_setReg s r _
  | data r j => exact sameOutcome_setReg s r _

theorem performWrite_sameOutcome {s t : State} {off n v : Nat} (hcmd : ¬ (n = 4 ∧ off = 0))
    (h : performWrite off n v s = .next t) : SameOutcome s t := by
  obtain ⟨hx, -⟩ | ⟨x, -, -, hw⟩ | ⟨-, hw⟩ := performWrite_cases off n v s
  · exact absurd (target_eq_cmd_iff.mp hx) hcmd
  · cases hw.symm.trans h
    exact sameOutcome_writeTarget s x v
  · cases hw.symm.trans h
    exact ⟨rfl, rfl, rfl⟩

/-- Every event but a reset and a write of `CMD`, at its offset or at its bus address, keeps the outcome. -/
theorem perform_sameOutcome {s t : State} {e : HostEvent} (h : perform e s = .next t) (hreset : e ≠ .reset)
    (hcmd : ∀ v, e ≠ .write 0x000 4 v) (hbus : ∀ addr v, e = .busWrite addr 4 v → addr ≠ Config.base) :
    SameOutcome s t := by
  cases e with
  | reset => exact absurd rfl hreset
  | read off n =>
    cases h
    exact ⟨rfl, rfl, rfl⟩
  | write off n v =>
    refine performWrite_sameOutcome ?_ h
    rintro ⟨rfl, rfl⟩
    exact hcmd v rfl
  | busRead addr n =>
    obtain ⟨off, -, hp⟩ | ⟨-, hp⟩ := perform_busRead_cases addr n s
    · cases hp.symm.trans h
      exact ⟨rfl, rfl, rfl⟩
    · cases hp.symm.trans h
  | busWrite addr n v =>
    obtain ⟨off, haddr, hp⟩ | ⟨-, hp⟩ := perform_busWrite_cases addr n v s
    · refine performWrite_sameOutcome ?_ (hp.symm.trans h)
      rintro ⟨rfl, rfl⟩
      exact hbus addr v rfl (busOffset_some haddr)
    · cases hp.symm.trans h

/-! ## Commands seen through reads (R23, R70) -/

/-- Whether a command with destination `rd` may change what a read of the target answers (R70). -/
def Target.WrittenBy (rd : VReg) : Target → Prop
  | .cmd => False
  | .status => True
  | .info => True
  | .len r => r = rd
  | .data r _ => r = rd

theorem finish_reg_other (s : State) {rd r : VReg} (v : Verdict) (h : r ≠ rd) :
    (s.finish rd v).reg r = s.reg r := by
  cases v with
  | success x n => exact (succeed_completed s rd x n).others r h
  | failure k n => exact (fail_failed s k n).regs r

theorem finish_cmd (s : State) (rd : VReg) (v : Verdict) : (s.finish rd v).cmd = s.cmd := by
  cases v with
  | success x n => exact (succeed_completed s rd x n).cmd
  | failure k n => exact (fail_failed s k n).cmd

theorem finish_readTarget (s : State) {rd : VReg} {x : Target} (v : Verdict) (hx : ¬ x.WrittenBy rd) :
    (s.finish rd v).readTarget x = s.readTarget x := by
  cases x with
  | cmd => simp only [State.readTarget, finish_cmd]
  | status => exact absurd trivial hx
  | info => exact absurd trivial hx
  | len r => simp only [State.readTarget, finish_reg_other s v hx]
  | data r j => simp only [State.readTarget, finish_reg_other s v hx]

theorem exec_memRead {i : Instr} {s t : State} {off n : Nat} (h : exec i s = .next t)
    (hx : ∀ x, target off n = some x → ¬ x.WrittenBy (dest i)) : t.memRead off n = s.memRead off n := by
  cases (exec_eq_finish i s).symm.trans h
  unfold State.memRead
  split
  · next x htarget => exact finish_readTarget s _ (hx x htarget)
  · rfl

end Sys2Proof.Machine
end

section
/-! Lengths of results (R9, R133, R135, R155): what a command writes is within the capacity of its sources, or of
a fixed length. -/

namespace Sys2Proof.Machine

theorem slice_length_le (s : BitSeq) (i j : Nat) : (slice s i j).length ≤ s.length := by
  simp only [slice, List.length_drop, List.length_take]; omega

theorem unstuff_length_le (x : BitSeq) : (unstuff x).length ≤ x.length := unstuffFrom_length_le x 0

/-- `VMAX` is a multiple of 8, so padding to whole bytes never leaves it (R6, R81). -/
theorem pad8_fits {x : BitSeq} (h : x.length ≤ Config.vmax) : (pad8 x).length ≤ Config.vmax := by
  have hbytes := vmax_eq
  simp only [pad8, List.length_append, zeros_length]
  omega

/-! ## The Hamming code (R133 to R135) -/

theorem foldl_set_length {α : Type} (p : α → Nat) (b : BitSeq → α → Bool) (l : List α) (c : BitSeq) :
    (l.foldl (fun c a => c.set (p a) (b c a)) c).length = c.length := by
  induction l generalizing c with
  | nil => rfl
  | cons a l ih => rw [List.foldl_cons, ih, List.length_set]

@[simp] theorem henc_length (d : BitSeq) : (henc d).length = 21 := by
  rw [henc, foldl_set_length, placeData, foldl_set_length, zeros_length, HAM_N]

theorem syndrome_le (c : BitSeq) : syndrome c ≤ 31 := by
  have h := fun k => Bool.toNat_le (hamCheck k c)
  have h0 := h 0; have h1 := h 1; have h2 := h 2; have h3 := h 3; have h4 := h 4
  unfold syndrome
  omega

/-- `hdec` answers the 16 data bits, or nothing when the syndrome is 22 or more (R135). -/
theorem hdec_cases (c : BitSeq) :
    (∃ d, hdec c = some d ∧ d.length = 16 ∧ syndrome c ≤ 21) ∨ (hdec c = none ∧ 22 ≤ syndrome c) := by
  unfold hdec
  dsimp only
  split_ifs with h0 h21
  · exact .inl ⟨_, rfl, hstrip_length c, by omega⟩
  · exact .inl ⟨_, rfl, hstrip_length _, h21⟩
  · exact .inr ⟨rfl, by omega⟩

/-! ## CRC repair (R155, R156) -/

theorem repairLoop_some (left r : Nat) (v y : BitSeq) (k : Nat) (h : repairLoop left r v = some (y, k)) :
    k < r + left ∧ y.length = v.length := by
  induction left generalizing r v with
  | zero => cases h
  | succ left ih =>
    unfold repairLoop at h
    split at h
    · obtain ⟨rfl, rfl⟩ := Prod.mk.inj (Option.some.inj h)
      exact ⟨by omega, by rw [rotrN_length, xorFinal_length v (mod2_length v)]⟩
    · obtain ⟨hk, hy⟩ := ih (r + 1) (rotl v) h
      exact ⟨by omega, by rw [hy, rotl_length]⟩

/-- The repaired word is as long as the word, and the rotation is found among its positions (R164). -/
theorem repair_some {w y : BitSeq} {k : Nat} (h : repair w = some (y, k)) :
    k < w.length ∧ y.length = w.length := by
  simpa using repairLoop_some w.length 0 w y k h

theorem crcdec_some {w p : BitSeq} {k : Nat} (h : crcdec w = some (p, k)) :
    k < w.length ∧ p.length ≤ w.length := by
  unfold crcdec at h
  split at h
  · cases h
  · next y r hrep =>
    obtain ⟨hk, hy⟩ := repair_some hrep
    obtain ⟨rfl, rfl⟩ := Prod.mk.inj (Option.some.inj h)
    exact ⟨hk, hy ▸ slice_length_le y 0 _⟩

end Sys2Proof.Machine
end

section
/-! The verdict of every command on registers within `VMAX` is legal: a result within `VMAX`, and `STATUS` with
`INFO` an outcome of R181. -/

namespace Sys2Proof.Machine

/-- What a command may end with: a result a register can hold (R21), and an outcome R181 lists. -/
def Verdict.Legal : Verdict → Prop
  | .success x v => x.length ≤ Config.vmax ∧ OutcomeLegal .ok v
  | .failure k v => OutcomeLegal k v

theorem legal_of_short_result {x : BitSeq} {v : Nat} (hx : x.length ≤ 24) (hv : v ≤ 32768) :
    (Verdict.success x v).Legal := ⟨hx.trans vmax_lower, hv⟩

theorem legal_of_fitting_result {x : BitSeq} (hx : x.length ≤ Config.vmax) : (Verdict.success x 0).Legal :=
  ⟨hx, Nat.zero_le _⟩

theorem operandError_legal : operandError.Legal := rfl

theorem ifFits_legal (x : BitSeq) : (ifFits x).Legal := by
  obtain ⟨hx, h⟩ | ⟨-, h⟩ := ifFits_cases x <;> rw [h]
  · exact legal_of_fitting_result hx
  · exact operandError_legal

theorem flipAt_legal {x : BitSeq} (hx : x.length ≤ Config.vmax) (p : Nat) : (flipAt x p).Legal := by
  unfold flipAt
  split
  · exact operandError_legal
  · exact legal_of_fitting_result (by rwa [flip_length])

theorem parityChecked_legal {x : BitSeq} (hx : x.length ≤ Config.vmax) : (parityChecked x).Legal := by
  unfold parityChecked
  split_ifs
  · rfl
  · rfl
  · exact legal_of_fitting_result ((slice_length_le x 0 _).trans hx)

/-- The payload is a part of the frame; with three flags the count is not reported (R112, R181). -/
theorem frameDecoded_legal {f : BitSeq} (hf : f.length ≤ Config.vmax) (a : BitSeq) : (frameDecoded f a).Legal := by
  unfold frameDecoded
  dsimp only
  split
  · rfl
  · split
    · split
      · rfl
      · exact legal_of_fitting_result ((unstuff_length_le _).trans
          ((slice_length_le _ _ _).trans ((slice_length_le f 0 _).trans hf)))
    · next hthree =>
      have hcount : (flagscan (slice f 0 (f.length - 1))).length ≠ 3 := fun h3 => by
        obtain ⟨f0, f1, f2, h⟩ := List.length_eq_three.mp h3
        exact hthree f0 f1 f2 h
      refine ⟨?_, Nat.min_le_right _ _⟩
      omega

theorem hamEncoded_legal (d : BitSeq) : (hamEncoded d).Legal := by
  unfold hamEncoded
  split
  · exact operandError_legal
  · exact legal_of_short_result (by simp) (Nat.zero_le _)

theorem hamDecoded_legal (c : BitSeq) : (hamDecoded c).Legal := by
  have hsyn := syndrome_le c
  unfold hamDecoded
  split
  · exact operandError_legal
  · obtain ⟨d, hd, hlen, -⟩ | ⟨hnone, hbig⟩ := hdec_cases c
    · rw [hd]
      exact legal_of_short_result (by omega) (by omega)
    · rw [hnone]
      exact ⟨by omega, by omega⟩

theorem hamDecodedInjected_legal (c : BitSeq) (p : Nat) : (hamDecodedInjected c p).Legal := by
  unfold hamDecodedInjected
  split_ifs
  · exact operandError_legal
  · exact operandError_legal
  · exact hamDecoded_legal _

theorem hamSyndrome_legal (c : BitSeq) : (hamSyndrome c).Legal := by
  have hsyn := syndrome_le c
  unfold hamSyndrome
  split
  · exact operandError_legal
  · exact legal_of_short_result (by simp) (by omega)

theorem crcStepped_legal (w : BitSeq) : (crcStepped w).Legal := by
  unfold crcStepped divstep
  split
  · exact operandError_legal
  · cases cell w 0
    · rfl
    · exact legal_of_short_result (by simp [CRC_G]) (Nat.zero_le _)

/-- What CRC.REP and CRC.DEC find in a word of a register is no longer than it, after fewer rotations (R160, R161). -/
theorem crcSearched_legal {n : Nat} (hn : n ≤ Config.vmax) {found : Option (BitSeq × Nat)}
    (hfound : ∀ y r, found = some (y, r) → r < n ∧ y.length ≤ n) : (crcSearched n found).Legal := by
  have hmax := vmax_upper
  rcases Nat.lt_or_ge n 3 with hshort | h3
  · rw [crcSearched_short hshort]
    exact operandError_legal
  · match found with
    | none =>
      rw [crcSearched_none h3]
      exact ⟨h3, hn.trans hmax⟩
    | some (y, r) =>
      rw [crcSearched_some h3]
      obtain ⟨hr, hy⟩ := hfound y r rfl
      exact ⟨hy.trans hn, show r ≤ 32768 by omega⟩

/-- Every command on registers within `VMAX` ends in a legal verdict (R70, R71, R181). -/
theorem verdictOf_legal (i : Instr) {V : VReg → BitSeq} (hV : ∀ r, (V r).length ≤ Config.vmax) :
    (verdictOf i V).Legal := by
  cases i with
  | bvPad8 rd rs1 => exact legal_of_fitting_result (pad8_fits (hV rs1))
  | bvRol rd rs1 => exact legal_of_fitting_result ((rotl_length _).trans_le (hV rs1))
  | bvRor rd rs1 => exact legal_of_fitting_result ((rotr_length _).trans_le (hV rs1))
  | bvRev rd rs1 => exact legal_of_fitting_result ((rev_length _).trans_le (hV rs1))
  | bvFlip rd rs1 imm => exact flipAt_legal (hV rs1) imm
  | stfStuff rd rs1 => exact ifFits_legal _
  | stfUnstuff rd rs1 => exact legal_of_fitting_result ((unstuff_length_le _).trans (hV rs1))
  | parGen rd rs1 => exact ifFits_legal _
  | parChk rd rs1 => exact parityChecked_legal (hV rs1)
  | frmEnc rd rs1 rs2 rs3 => exact ifFits_legal _
  | frmDec rd rs1 rs2 => exact frameDecoded_legal (hV rs1) _
  | hamEnc rd rs1 => exact hamEncoded_legal _
  | hamDec rd rs1 => exact hamDecoded_legal _
  | hamDeci rd rs1 imm => exact hamDecodedInjected_legal _ imm
  | hamSyn rd rs1 => exact hamSyndrome_legal _
  | crcMod rd rs1 => exact legal_of_short_result (by simp) (Nat.zero_le _)
  | crcStep rd rs1 => exact crcStepped_legal _
  | crcEnc rd rs1 => exact ifFits_legal _
  | crcRep rd rs1 => exact crcSearched_legal (hV rs1) fun y r h => ⟨(repair_some h).1, (repair_some h).2.le⟩
  | crcDec rd rs1 => exact crcSearched_legal (hV rs1) fun y r h => crcdec_some h

end Sys2Proof.Machine
end

section
/-! The invariant is kept by each update of State, by each host access, and so by every step. -/

namespace Sys2Proof.Machine

variable {s t : State}

/-! ## Updates of State -/

/-- The invariant reads the registers, `STATUS` and `INFO` only. -/
theorem Inv.of_same (h : Inv s) (hreg : ∀ r, t.reg r = s.reg r) (hstatus : t.status = s.status)
    (hinfo : t.info = s.info) : Inv t where
  fits := fun r => hreg r ▸ h.fits r
  outcome := by rw [hstatus, hinfo]; exact h.outcome

theorem Inv.setReg (h : Inv s) (r : VReg) {x : BitSeq} (hx : x.length ≤ Config.vmax) : Inv (s.setReg r x) where
  fits := fun q => by
    rw [State.reg_setReg]
    split
    · exact hx
    · exact h.fits q
  outcome := by simpa using h.outcome

/-- Every legal `INFO` value fits in its 32 bits (R27). -/
theorem OutcomeLegal.lt {k : Code} {v : Nat} (h : OutcomeLegal k v) : v < 2 ^ 32 := by
  cases k <;> simp only [OutcomeLegal] at h <;> omega

theorem Inv.setOutcome (h : Inv s) {k : Code} {v : Nat} (hkv : OutcomeLegal k v) : Inv (s.setOutcome k v) where
  fits := fun r => by simpa using h.fits r
  outcome := by
    rw [State.setOutcome_info, BitVec.toNat_ofNat, Nat.mod_eq_of_lt hkv.lt]
    exact hkv

theorem Inv.finish (h : Inv s) (rd : VReg) {v : Verdict} (hv : v.Legal) : Inv (s.finish rd v) := by
  cases v with
  | success x n => exact (h.setReg rd hv.1).setOutcome hv.2
  | failure k n => exact h.setOutcome hv

theorem inv_reset : Inv State.reset where
  fits := fun r => by simp
  outcome := Nat.zero_le _

theorem inv_applyReset (s : State) : Inv s.applyReset :=
  inv_reset.of_same (fun r => by simp) rfl rfl

/-! ## Host accesses -/

/-- An access whose next state, if it has one, meets the invariant. -/
def KeepsInv (o : Host.Outcome State Fault Refusal) : Prop := ∀ t, o = .next t → Inv t

@[simp] theorem keepsInv_next : KeepsInv (.next t) ↔ Inv t := by simp [KeepsInv]

@[simp] theorem keepsInv_fault (f : Fault) : KeepsInv (.fault f) := fun _ h => nomatch h

theorem exec_keepsInv (i : Instr) (h : Inv s) : KeepsInv (exec i s) := by
  rw [exec_eq_finish, keepsInv_next]
  exact h.finish (dest i) (verdictOf_legal i h.fits)

theorem execute_keepsInv (w : Word) (h : Inv s) : KeepsInv (execute w s) := by
  have hcmd : Inv { s with cmd := w } := h.of_same (fun r => by simp) rfl rfl
  cases hd : decode w with
  | ok i =>
    rw [execute_ok s hd]
    exact exec_keepsInv i hcmd
  | error e =>
    rw [execute_error s hd, keepsInv_next]
    exact hcmd.setOutcome (k := .illegalCommand) rfl

theorem Inv.writeLen (h : Inv s) (r : VReg) (v : Word) : Inv (s.writeLen r v) := by
  unfold State.writeLen
  split
  · exact h
  · exact h.setReg r (by rw [setLength_length]; omega)

theorem Inv.writeTarget (h : Inv s) (x : Target) (v : Nat) : Inv (s.writeTarget x v) := by
  cases x with
  | cmd => exact h
  | status => exact h
  | info => exact h
  | len r => exact h.writeLen r _
  | data r j => exact h.setReg r ((setByte_length _ _ _).trans_le (h.fits r))

theorem performRead_keepsInv (off n : Nat) (h : Inv s) : KeepsInv (performRead off n s) :=
  keepsInv_next.mpr (h.of_same (fun r => by simp) rfl rfl)

theorem performWrite_keepsInv (off n v : Nat) (h : Inv s) : KeepsInv (performWrite off n v s) := by
  obtain ⟨-, hw⟩ | ⟨x, -, -, hw⟩ | ⟨-, hw⟩ := performWrite_cases off n v s <;> rw [hw]
  · exact execute_keepsInv _ h
  · exact keepsInv_next.mpr (h.writeTarget x v)
  · exact keepsInv_next.mpr h

theorem perform_keepsInv (e : HostEvent) (h : Inv s) : KeepsInv (perform e s) := by
  cases e with
  | reset => exact keepsInv_next.mpr (inv_applyReset s)
  | read off n => exact performRead_keepsInv off n h
  | write off n v => exact performWrite_keepsInv off n v h
  | busRead addr n =>
    obtain ⟨off, -, hp⟩ | ⟨-, hp⟩ := perform_busRead_cases addr n s <;> rw [hp]
    · exact performRead_keepsInv off n h
    · exact keepsInv_fault _
  | busWrite addr n v =>
    obtain ⟨off, -, hp⟩ | ⟨-, hp⟩ := perform_busWrite_cases addr n v s <;> rw [hp]
    · exact performWrite_keepsInv off n v h
    · exact keepsInv_fault _

theorem step_keepsInv (h : Inv s) : KeepsInv (step s) := by
  obtain ⟨-, hstep⟩ | ⟨e, rest, -, hstep⟩ := step_cases s <;> rw [hstep]
  · exact keepsInv_next.mpr h
  · exact perform_keepsInv e (h.of_same (fun r => by simp) rfl rfl)

end Sys2Proof.Machine
end

section
open Sys2Proof Sys2Proof.Machine

/-- Settles O3, by the invariant of each host access: a command's verdict is legal on registers within `VMAX`. -/
theorem stepKeepsInvariant : Obligations.StepKeepsInvariant :=
  fun _ s' h hstep => step_keepsInv h s' hstep

/-- Settles O2: every register is empty, and `OK` with `INFO` 0 is an outcome of R181. -/
theorem resetMeetsInvariant : Obligations.ResetMeetsInvariant := inv_reset

/-- Settles O13: a read of anything else addresses no target that the completion of a command writes. -/
theorem commandLeavesOtherRegisterSpace : Obligations.CommandLeavesOtherRegisterSpace := by
  intro i s t off n hexec hstatus hinfo hlen hdata
  refine exec_memRead hexec fun x hx hwritten => ?_
  obtain ⟨rfl, rfl, hpresent⟩ := target_eq_some_iff.mp hx
  cases x with
  | cmd => exact hwritten
  | status => exact hstatus ⟨rfl, rfl⟩
  | info => exact hinfo ⟨rfl, rfl⟩
  | len r => exact hlen ⟨rfl, hwritten ▸ rfl⟩
  | data r j =>
    subst hwritten
    have hj : j < 0x1000 := Nat.lt_of_lt_of_le hpresent windowBytes_le
    have hoff : (Target.data (dest i) j).offset = 0x1000 * ((dest i).num + 1) + j := rfl
    exact hdata ⟨rfl, by omega, by omega⟩

/-- Settles O56: an access that does not address `CMD` executes nothing. -/
theorem onlyCommandsWriteTheOutcome : Obligations.OnlyCommandsWriteTheOutcome := by
  intro s t e rest hpending hstep hreset hcmd hbus
  rw [step_of_pending hpending] at hstep
  exact (perform_sameOutcome hstep hreset hcmd hbus :)

/-- Settles O1: the registers by the reset law, the rest by the definition of the reset state. -/
theorem resetHoldsTheStatedValues : Obligations.ResetHoldsTheStatedValues :=
  ⟨State.reset_reg, rfl, rfl, rfl⟩

/-- Settles O5: a 4-byte write at offset 0 is a write of `CMD`, and its word is decoded once. -/
theorem stepExecutesWrittenCommand : Obligations.StepExecutesWrittenCommand := by
  intro s rest w hpending
  have hstep : step s = execute w { s with pending := rest, reply := none } := by
    rw [step_of_pending hpending]
    show execute (BitVec.ofNat 32 w.toNat) _ = _
    rw [BitVec.ofNat_toNat, BitVec.setWidth_eq]
  exact ⟨fun i hi => hstep.trans (execute_ok _ hi), fun e he => hstep.trans (execute_error _ he)⟩

/-- Settles O54: each control register stands at its offset, and a read changes nothing. -/
theorem controlRegistersReadBack : Obligations.ControlRegistersReadBack := by
  intro s rest
  refine ⟨fun h => step_readTarget (x := .cmd) trivial h, fun h => ⟨?_, s.status.number_le⟩,
    fun h => step_readTarget (x := .info) trivial h, fun r h => step_readTarget (x := .len r) trivial h,
    rfl, rfl, rfl, rfl, rfl, rfl, rfl, rfl, rfl⟩
  rw [← statusWord_toNat]
  exact step_readTarget (x := .status) trivial h
end

section
/-! Writes of the register space (R40 to R48, R56): where a bus address leads, which accesses are illegal, what a
`VnLEN` or data-window write leaves in the cells, and the loading of a register byte by byte. -/

namespace Sys2Proof.Machine

/-! ## Bus addresses inside and outside the register space (R40) -/

theorem busOffset_base_add {off : Nat} (h : off < 0x5000) : busOffset (Config.base + off) = some off := by
  have hin : Config.base ≤ Config.base + off ∧ Config.base + off < Config.base + spaceSize :=
    ⟨Nat.le_add_right _ _, Nat.add_lt_add_left h _⟩
  rw [busOffset, if_pos hin, Nat.add_sub_cancel_left]

theorem perform_busRead_base_add {off : Nat} (h : off < 0x5000) (n : Nat) (s : State) :
    perform (.busRead (Config.base + off) n) s = perform (.read off n) s := by
  simp only [perform, busOffset_base_add h]

theorem perform_busWrite_base_add {off : Nat} (h : off < 0x5000) (n v : Nat) (s : State) :
    perform (.busWrite (Config.base + off) n v) s = perform (.write off n v) s := by
  simp only [perform, busOffset_base_add h]

theorem busOffset_outside {addr : Nat} (h : addr < Config.base ∨ Config.base + 0x5000 ≤ addr) :
    busOffset addr = none := by
  refine if_neg ?_
  unfold spaceSize
  omega

/-! ## Illegal accesses (R48) -/

/-- Whatever the register map gives a target for is an access that R42 or R43 allows. -/
theorem legalAccess_of_target {off n : Nat} {x : Target} (h : target off n = some x) : LegalAccess off n := by
  obtain ⟨rfl, rfl, hpresent⟩ := target_eq_some_iff.mp h
  cases x with
  | cmd => exact .inl ⟨rfl, by decide⟩
  | status => exact .inl ⟨rfl, by decide⟩
  | info => exact .inl ⟨rfl, by decide⟩
  | len r => exact .inl ⟨rfl, by cases r <;> decide⟩
  | data r j =>
    have hnum : r.num ≤ 3 := by cases r <;> decide
    have hj : j < Config.windowBytes := hpresent
    have hoff : (Target.data r j).offset = 0x1000 * (r.num + 1) + j := rfl
    refine .inr ⟨rfl, r.num + 1, by omega, by omega, by omega, ?_⟩
    rw [hoff, vmax_div_eight]
    exact Nat.add_lt_add_left hj _

theorem target_of_illegal {off n : Nat} (h : ¬ LegalAccess off n) : target off n = none :=
  Option.eq_none_iff_forall_ne_some.mpr fun _ hx => h (legalAccess_of_target hx)

/-! ## What a write leaves in the cells (R46, R47) -/

/-- Padding with 0 bits shows in no cell, since the cells beyond a sequence are 0 (R21). -/
theorem cell_append_zeros (x : BitSeq) (n i : Nat) : cell (x ++ zeros n) i = cell x i := by
  rcases Nat.lt_or_ge i x.length with hin | hout
  · simp [cell, List.getElem?_append_left hin]
  · rw [cell_of_ge x hout, cell, List.getD_append_right _ _ _ _ hout]
    simp [zeros]

theorem cell_setLength (x : BitSeq) (L i : Nat) :
    cell (setLength x L) i = if i < L then cell x i else false := by
  rw [setLength, cell_append_zeros]
  split
  · next hi => simp [cell, hi]
  · next hi => exact cell_of_ge _ (by rw [List.length_take]; omega)

theorem cell_setByte (x : BitSeq) (j : Nat) (v : Byte) {i : Nat} (hi : i < x.length) :
    cell (setByte x j v) i = if i / 8 = j then v.getLsbD (7 - i % 8) else cell x i := by
  rw [cell_of_lt _ (by rwa [setByte_length])]
  simp [setByte]

theorem cell_setByte_other (x : BitSeq) {j : Nat} (v : Byte) {i : Nat} (h : i / 8 ≠ j) :
    cell (setByte x j v) i = cell x i := by
  rcases Nat.lt_or_ge i x.length with hin | hout
  · rw [cell_setByte x j v hin, if_neg h]
  · rw [cell_of_ge x hout, cell_of_ge _ (by rwa [setByte_length])]

/-- The bytes that the sequence does not reach read as 0 (R44). -/
theorem byteAt_of_ge (x : BitSeq) {j : Nat} (h : byteCount x.length ≤ j) : byteAt x j = 0 := by
  apply byteBits_injective
  rw [byteBits_byteAt]
  refine List.map_congr_left fun k _ => ?_
  rw [cell_of_ge x (by unfold byteCount at h; omega)]
  simp

/-! ## A write as a step -/

theorem step_illegalWrite {s : State} {off n v : Nat} {rest : List HostEvent} (hx : target off n = none)
    (h : s.pending = .write off n v :: rest) : step s = .next { s with pending := rest, reply := none } := by
  rw [step_of_pending h, perform, performWrite, hx]

/-- A write of anything but `CMD` only writes its target. -/
theorem step_writeTarget {s : State} {x : Target} {v : Nat} {rest : List HostEvent} (hx : x.Present)
    (hcmd : x ≠ .cmd) (h : s.pending = .write x.offset x.width v :: rest) :
    step s = .next ({ s with pending := rest, reply := none }.writeTarget x v) := by
  rw [step_of_pending h, perform]
  have htarget := target_offset hx
  obtain ⟨hc, -⟩ | ⟨y, hy, -, hw⟩ | ⟨hn, -⟩ :=
    performWrite_cases x.offset x.width v { s with pending := rest, reply := none }
  · exact absurd (Option.some.inj (htarget.symm.trans hc)) hcmd
  · rw [hw, Option.some.inj (htarget.symm.trans hy)]
  · cases htarget.symm.trans hn

/-- The test of R47 is one comparison, since no `VMAX` reaches the upper half of the word. -/
theorem writeLen_ofNat (s : State) (r : VReg) {v : Nat} (hv : v < 2 ^ 32) :
    s.writeLen r (BitVec.ofNat 32 v) =
      if v ≤ Config.vmax then s.setReg r (setLength (s.reg r) v) else s := by
  have hmax := vmax_upper
  have hhigh : (BitVec.ofNat 32 v).extractLsb' 16 16 = 0#16 ↔ v < 65536 := by
    rw [← BitVec.toNat_inj]
    simp only [BitVec.extractLsb'_toNat, BitVec.toNat_ofNat, Nat.shiftRight_eq_div_pow]
    omega
  have hlow : ((BitVec.ofNat 32 v).extractLsb' 0 16).toNat = v % 65536 := by
    simp only [BitVec.extractLsb'_toNat, BitVec.toNat_ofNat, Nat.shiftRight_zero]
    omega
  unfold State.writeLen
  simp only [ne_eq, hhigh, hlow]
  by_cases hfits : v ≤ Config.vmax
  · rw [if_neg (by omega), if_pos hfits, Nat.mod_eq_of_lt (by omega)]
  · rw [if_pos (by omega), if_neg hfits]

theorem step_writeLen {s : State} {r : VReg} {v : Nat} {rest : List HostEvent} (hv : v ≤ Config.vmax)
    (h : s.pending = .write (lenOffset r) 4 v :: rest) :
    step s = .next ({ s with pending := rest, reply := none }.setReg r (setLength (s.reg r) v)) := by
  have hmax := vmax_upper
  rw [step_writeTarget (x := .len r) trivial nofun h, State.writeTarget, writeLen_ofNat _ _ (by omega),
    if_pos hv, State.reg_takeEvent]

theorem step_writeLen_ignored {s : State} {r : VReg} {v : Nat} {rest : List HostEvent} (hv : v < 2 ^ 32)
    (hmax : Config.vmax < v) (h : s.pending = .write (lenOffset r) 4 v :: rest) :
    step s = .next { s with pending := rest, reply := none } := by
  rw [step_writeTarget (x := .len r) trivial nofun h, State.writeTarget, writeLen_ofNat _ _ hv,
    if_neg (Nat.not_le.mpr hmax)]

theorem step_writeData {s : State} {r : VReg} {j v : Nat} {rest : List HostEvent} (hj : j < Config.windowBytes)
    (h : s.pending = .write (dataOffset r j) 1 v :: rest) :
    step s = .next
      ({ s with pending := rest, reply := none }.setReg r (setByte (s.reg r) j (BitVec.ofNat 8 v))) := by
  rw [step_writeTarget (x := .data r j) hj nofun h, State.writeTarget, State.writeData, State.reg_takeEvent]

/-- What an access that writes the register `r` alone leaves as it was. -/
theorem takeEvent_setReg_frame (s : State) (r : VReg) (x : BitSeq) (rest : List HostEvent) :
    let t := { s with pending := rest, reply := none }.setReg r x
    (∀ q, q ≠ r → t.reg q = s.reg q) ∧
      t.cmd = s.cmd ∧ t.status = s.status ∧ t.info = s.info ∧ t.pending = rest ∧ t.reply = none := by
  refine ⟨fun q hq => ?_, by simp⟩
  rw [State.reg_setReg_other _ x hq, State.reg_takeEvent]

/-! ## Loading a register through its window (R46, R56) -/

/-- `y` has the length of `x` and agrees with it on the first `k` bytes. -/
def LoadedUpTo (k : Nat) (x y : BitSeq) : Prop := y.length = x.length ∧ ∀ i < 8 * k, cell y i = cell x i

theorem loadedUpTo_zero (x y : BitSeq) : LoadedUpTo 0 x (setLength y x.length) :=
  ⟨setLength_length y x.length, fun i hi => by omega⟩

theorem LoadedUpTo.succ {k : Nat} {x y : BitSeq} (h : LoadedUpTo k x y) :
    LoadedUpTo (k + 1) x (setByte y k (byteAt x k)) := by
  obtain ⟨hlen, hcells⟩ := h
  refine ⟨(setByte_length _ _ _).trans hlen, fun i hi => ?_⟩
  by_cases hbyte : i / 8 = k
  · rcases Nat.lt_or_ge i x.length with hin | hout
    · have hsplit : 8 * k + i % 8 = i := by omega
      rw [cell_setByte y k _ (by rwa [hlen]), if_pos hbyte, getLsbD_byteAt x k (by omega), hsplit]
    · rw [cell_of_ge x hout, cell_of_ge _ (by rwa [setByte_length, hlen])]
  · rw [cell_setByte_other y _ hbyte, hcells i (by omega)]

theorem LoadedUpTo.eq {x y : BitSeq} (h : LoadedUpTo (byteCount x.length) x y) : y = x := by
  obtain ⟨hlen, hcells⟩ := h
  apply List.ext_getElem hlen
  intro i hy hx
  rw [← cell_of_lt y hy, ← cell_of_lt x hx]
  exact hcells i (by unfold byteCount; omega)

/-- The access that stores byte `j` of `x` in the window of `r` (R46). -/
def byteWrite (r : VReg) (x : BitSeq) (j : Nat) : HostEvent := .write (dataOffset r j) 1 (byteAt x j).toNat

theorem loadEvents_eq (r : VReg) (x : BitSeq) :
    loadEvents r x = .write (lenOffset r) 4 x.length :: (List.range' 0 (byteCount x.length)).map (byteWrite r x) := by
  rw [← List.range_eq_range']
  rfl

theorem loadEvents_length (r : VReg) (x : BitSeq) : (loadEvents r x).length = byteCount x.length + 1 := by
  simp [loadEvents]

/-- Running on from a step that is made. -/
theorem run_succ_of_step {M : Host.Core} {s t : M.State} (h : M.step s = .next t) (k : Nat) :
    M.run (k + 1) s = M.run k t := by
  rw [Host.Core.run, h]

/-- Loading a register makes up for whatever the accesses before left in it. -/
theorem hostLoad_of_setReg (s : State) (r : VReg) (x y : BitSeq) (p q : List HostEvent) :
    { ({ s with pending := p, reply := none }.setReg r y).hostLoad r x with pending := q, reply := none } =
      { s.hostLoad r x with pending := q, reply := none } := by
  cases r <;> rfl

theorem hostLoad_self {s : State} {r : VReg} {x : BitSeq} {rest : List HostEvent} (hreg : s.reg r = x)
    (hpending : s.pending = rest) (hreply : s.reply = none) :
    { s.hostLoad r x with pending := rest, reply := none } = s := by
  subst hreg hpending
  cases s
  cases hreply
  cases r <;> rfl

/-- The byte writes from byte `k` on complete a register that is loaded up to there: by induction on their number. -/
theorem run_byteWrites {r : VReg} {x : BitSeq} {rest : List HostEvent} (hx : x.length ≤ Config.vmax) (m : Nat) :
    ∀ (k : Nat) (s : State), k + m = byteCount x.length → LoadedUpTo k x (s.reg r) → s.reply = none →
      s.pending = (List.range' k m).map (byteWrite r x) ++ rest →
      Host.Core.run Sys2Proof.core m s = .next { s.hostLoad r x with pending := rest, reply := none } := by
  induction m with
  | zero =>
    intro k s hk hloaded hreply hpending
    have hreg : s.reg r = x := LoadedUpTo.eq (hk ▸ hloaded)
    exact congrArg Host.Outcome.next (hostLoad_self hreg hpending hreply).symm
  | succ m ih =>
    intro k s hk hloaded hreply hpending
    have hj : k < Config.windowBytes := by
      rw [vmax_eq] at hx
      unfold byteCount at hk
      omega
    have hstep := step_writeData hj hpending
    rw [BitVec.ofNat_toNat, BitVec.setWidth_eq] at hstep
    refine (run_succ_of_step (M := Sys2Proof.core) hstep m).trans ?_
    rw [ih (k + 1) _ (by omega), hostLoad_of_setReg]
    · rw [State.reg_setReg_same]
      exact hloaded.succ
    · simp
    · simp

/-- The accesses of R56 are `HostLoad`: the length write prepares the register, the byte writes fill it. -/
theorem run_loadEvents {s : State} {r : VReg} {x : BitSeq} {rest : List HostEvent} (hx : x.length ≤ Config.vmax)
    (h : s.pending = loadEvents r x ++ rest) :
    Host.Core.run Sys2Proof.core (loadEvents r x).length s =
      .next { s.hostLoad r x with pending := rest, reply := none } := by
  rw [loadEvents_eq] at h
  rw [loadEvents_length]
  refine (run_succ_of_step (M := Sys2Proof.core) (step_writeLen hx h) _).trans ?_
  rw [run_byteWrites hx _ 0 _ (Nat.zero_add _), hostLoad_of_setReg]
  · rw [State.reg_setReg_same]
    exact loadedUpTo_zero x _
  · simp
  · simp

end Sys2Proof.Machine
end

section
open Sys2Proof Sys2Proof.Machine

/-- Settles O51: a length above `VMAX`, which one with an upper half is, writes nothing; another one sets the length. -/
theorem lengthWriteTruncatesOrExtends : Obligations.LengthWriteTruncatesOrExtends := by
  intro s r v rest hv hpending
  have hmax := vmax_upper
  refine ⟨fun hbad => step_writeLen_ignored hv (by omega) hpending, fun _ hfits =>
    ⟨_, step_writeLen hfits hpending, ?_, fun i hi => ?_, takeEvent_setReg_frame s r _ rest⟩⟩
  · rw [State.reg_setReg_same, setLength_length]
  · rw [State.reg_setReg_same, cell_setLength, if_pos hi]

/-- Settles O52: the byte's bits land in its own cells below the length, and nowhere else. -/
theorem dataWriteStoresBelowTheLength : Obligations.DataWriteStoresBelowTheLength := by
  intro s r j v rest hj _ hpending
  rw [vmax_div_eight] at hj
  refine ⟨_, step_writeData hj hpending, ?_, fun k hk hlen => ?_, fun i hi => ?_,
    takeEvent_setReg_frame s r _ rest⟩
  · rw [State.reg_setReg_same, setByte_length]
  · have hdiv : (8 * j + k) / 8 = j := by omega
    have hmod : (8 * j + k) % 8 = k := by omega
    have hpos : 7 - k < 8 := by omega
    rw [State.reg_setReg_same, cell_setByte _ j _ hlen, if_pos hdiv, hmod, BitVec.getLsbD_ofNat]
    simp [hpos]
  · rw [State.reg_setReg_same, cell_setByte_other _ _ (by omega)]

/-- Settles O53: the answer is the byte of the cells, which beyond the bytes of the sequence is 0. -/
theorem dataReadAnswersTheCells : Obligations.DataReadAnswersTheCells := by
  intro s r j rest hj hpending
  rw [vmax_div_eight] at hj
  refine ⟨(byteAt (s.reg r) j).toNat, (byteAt (s.reg r) j).isLt, step_readTarget (x := .data r j) hj hpending,
    fun k hk => getLsbD_byteAt (s.reg r) j hk, fun h => by simp [fromBits], fun h => ?_⟩
  rw [byteAt_of_ge (s.reg r) (by simpa [fromBits] using h)]
  rfl

/-- Settles O55: an illegal access has no target, so a read finds nothing and a write is ignored. -/
theorem illegalAccessHasNoEffect : Obligations.IllegalAccessHasNoEffect := by
  intro s off n v rest hillegal
  have hnone := target_of_illegal hillegal
  refine ⟨fun h => ?_, step_illegalWrite hnone⟩
  rw [step_read h, State.memRead, hnone]

/-- Settles O58: the length write and then the byte writes, by induction on the bytes still to be written. -/
theorem windowLoadRefinesHostLoad : Obligations.WindowLoadRefinesHostLoad :=
  fun s r x _ hx hpending => ⟨run_loadEvents hx hpending, s.reg_setReg_same r x⟩

/-- Settles O57: both accesses are performed alike, since the bus address has the offset; outside there is none. -/
theorem busAddressesAreOffsetsFromBase : Obligations.BusAddressesAreOffsetsFromBase := by
  intro s addr n v rest
  refine ⟨fun off hoff haddr => ⟨fun h => ?_, fun h => ?_⟩, fun hout => ⟨fun h => ?_, fun h => ?_⟩⟩
  · rw [step_of_pending h, step_of_pending rfl, haddr]
    exact perform_busRead_base_add hoff n _
  · rw [step_of_pending h, step_of_pending rfl, haddr]
    exact perform_busWrite_base_add hoff n v _
  · rw [step_of_pending h, perform, busOffset_outside hout]
  · rw [step_of_pending h, perform, busOffset_outside hout]
end

section
/-! The command word (R60 to R66): decoding and encoding are inverse, first on each format and then on every
command; the rows of the opcode table, whose masks cover the opcode and the unused fields. -/

namespace Sys2Proof

/-! ## Decoding the word of a command, by format (R61) -/

section
variable (op : BitVec 8) (rd rs1 rs2 rs3 : VReg)

@[simp] theorem opcodeField_encodeR2 : opcodeField (encodeR2 op rd rs1) = op := opcodeField_packWord ..

@[simp] theorem opcodeField_encodeI (imm : Nat) : opcodeField (encodeI op rd rs1 imm) = op :=
  opcodeField_packWord ..

@[simp] theorem decodeR2_encodeR2 (mk : VReg → VReg → Instr) :
    decodeR2 mk (encodeR2 op rd rs1) = .ok (mk rd rs1) := by
  simp [decodeR2, encodeR2]

@[simp] theorem decodeR3_packWord (mk : VReg → VReg → VReg → Instr) :
    decodeR3 mk (packWord op rd.bits rs1.bits rs2.bits 0#2 0#16) = .ok (mk rd rs1 rs2) := by
  simp [decodeR3]

@[simp] theorem decodeR4_packWord (mk : VReg → VReg → VReg → VReg → Instr) :
    decodeR4 mk (packWord op rd.bits rs1.bits rs2.bits rs3.bits 0#16) = .ok (mk rd rs1 rs2 rs3) := by
  simp [decodeR4]

theorem decodeI_encodeI (mk : VReg → VReg → Nat → Instr) {imm : Nat} (h : immInRange imm = true) :
    decodeI mk (encodeI op rd rs1 imm) = .ok (mk rd rs1 imm) := by
  have hlt : imm < 65536 := of_decide_eq_true h
  simp [decodeI, encodeI, Nat.mod_eq_of_lt hlt]

end

/-- The word of a well-formed command has its opcode and leaves the fields its format does not use 0. -/
theorem decode_encode {i : Instr} (h : i.wellFormed = true) : decode (encode i) = .ok i := by
  cases i with
  | bvFlip rd rs1 imm | hamDeci rd rs1 imm => simp [encode, decode, decodeI_encodeI _ _ _ _ h]
  | _ => simp [encode, decode]

/-! ## The command of a legal word, by format (R61) -/

theorem ite_ok_eq_ok_iff {c : Prop} [Decidable c] {i j : Instr} {e : IllegalReason} :
    (if c then Except.ok j else Except.error e) = Except.ok i ↔ c ∧ j = i := by
  split <;> simp [*]

section
variable {w : Word} {i : Instr}

theorem decodeR2_eq_ok_iff {mk : VReg → VReg → Instr} : decodeR2 mk w = .ok i ↔
    (rs2Field w = 0 ∧ rs3Field w = 0 ∧ immField w = 0) ∧ mk (.ofBits (rdField w)) (.ofBits (rs1Field w)) = i :=
  ite_ok_eq_ok_iff

theorem decodeR3_eq_ok_iff {mk : VReg → VReg → VReg → Instr} : decodeR3 mk w = .ok i ↔
    (rs3Field w = 0 ∧ immField w = 0) ∧
      mk (.ofBits (rdField w)) (.ofBits (rs1Field w)) (.ofBits (rs2Field w)) = i :=
  ite_ok_eq_ok_iff

theorem decodeR4_eq_ok_iff {mk : VReg → VReg → VReg → VReg → Instr} : decodeR4 mk w = .ok i ↔
    immField w = 0 ∧
      mk (.ofBits (rdField w)) (.ofBits (rs1Field w)) (.ofBits (rs2Field w)) (.ofBits (rs3Field w)) = i :=
  ite_ok_eq_ok_iff

theorem decodeI_eq_ok_iff {mk : VReg → VReg → Nat → Instr} : decodeI mk w = .ok i ↔
    (rs2Field w = 0 ∧ rs3Field w = 0) ∧
      mk (.ofBits (rdField w)) (.ofBits (rs1Field w)) (immField w).toNat = i :=
  ite_ok_eq_ok_iff

variable {n : Nat} (hop : (opcodeField w).toNat = n)
include hop

theorem packWord_of_opcode :
    packWord (BitVec.ofNat 8 n) (rdField w) (rs1Field w) (rs2Field w) (rs3Field w) (immField w) = w := by
  subst hop
  simpa using packWord_fields w

theorem encode_of_decodeR2 {mk : VReg → VReg → Instr} (h : decodeR2 mk w = .ok i)
    (hmk : ∀ rd rs1, (mk rd rs1).wellFormed = true ∧ encode (mk rd rs1) = encodeR2 (BitVec.ofNat 8 n) rd rs1) :
    i.wellFormed = true ∧ encode i = w := by
  obtain ⟨⟨h2, h3, himm⟩, rfl⟩ := decodeR2_eq_ok_iff.mp h
  have hw := packWord_of_opcode hop
  rw [h2, h3, himm] at hw
  simpa [hmk, encodeR2] using hw

theorem encode_of_decodeR3 {mk : VReg → VReg → VReg → Instr} (h : decodeR3 mk w = .ok i)
    (hmk : ∀ rd rs1 rs2, (mk rd rs1 rs2).wellFormed = true ∧
      encode (mk rd rs1 rs2) = packWord (BitVec.ofNat 8 n) rd.bits rs1.bits rs2.bits 0 0) :
    i.wellFormed = true ∧ encode i = w := by
  obtain ⟨⟨h3, himm⟩, rfl⟩ := decodeR3_eq_ok_iff.mp h
  have hw := packWord_of_opcode hop
  rw [h3, himm] at hw
  simpa [hmk] using hw

theorem encode_of_decodeR4 {mk : VReg → VReg → VReg → VReg → Instr} (h : decodeR4 mk w = .ok i)
    (hmk : ∀ rd rs1 rs2 rs3, (mk rd rs1 rs2 rs3).wellFormed = true ∧
      encode (mk rd rs1 rs2 rs3) = packWord (BitVec.ofNat 8 n) rd.bits rs1.bits rs2.bits rs3.bits 0) :
    i.wellFormed = true ∧ encode i = w := by
  obtain ⟨himm, rfl⟩ := decodeR4_eq_ok_iff.mp h
  have hw := packWord_of_opcode hop
  rw [himm] at hw
  simpa [hmk] using hw

theorem encode_of_decodeI {mk : VReg → VReg → Nat → Instr} (h : decodeI mk w = .ok i)
    (hmk : ∀ rd rs1 imm, (mk rd rs1 imm).wellFormed = immInRange imm ∧
      encode (mk rd rs1 imm) = encodeI (BitVec.ofNat 8 n) rd rs1 imm) :
    i.wellFormed = true ∧ encode i = w := by
  obtain ⟨⟨h2, h3⟩, rfl⟩ := decodeI_eq_ok_iff.mp h
  have hw := packWord_of_opcode hop
  rw [h2, h3] at hw
  have hrange : immInRange (immField w).toNat = true := decide_eq_true (immField w).isLt
  simpa [hmk, hrange, encodeI] using hw

end

/-- Every opcode leads to the decoder of its format, with the constructor whose word has that opcode. -/
theorem encode_of_decode {w : Word} {i : Instr} (h : decode w = .ok i) :
    i.wellFormed = true ∧ encode i = w := by
  unfold decode at h
  split at h
  -- The two commands with an immediate, then FRM.ENC, FRM.DEC, and the opcodes of no command.
  case h_5 | h_14 => exact encode_of_decodeI (by assumption) h fun _ _ _ => ⟨rfl, rfl⟩
  case h_10 => exact encode_of_decodeR4 (by assumption) h fun _ _ _ _ => ⟨rfl, rfl⟩
  case h_11 => exact encode_of_decodeR3 (by assumption) h fun _ _ _ => ⟨rfl, rfl⟩
  case h_21 => cases h
  all_goals exact encode_of_decodeR2 (by assumption) h fun _ _ => ⟨rfl, rfl⟩

/-! ## The rows of the opcode table (R61, R64) -/

/-- A field that the mask covers is the field of the match. -/
theorem extractLsb'_of_mask {w m v : Word} {start len : Nat} (h : w &&& m = v)
    (hm : m.extractLsb' start len = BitVec.allOnes len) : w.extractLsb' start len = v.extractLsb' start len := by
  rw [← h, BitVec.extractLsb'_and, hm, BitVec.and_allOnes]

/-- One command of each row, in the order of the table. -/
def oneOfEachRow : List Instr :=
  [.bvPad8 .v0 .v0, .bvRol .v0 .v0, .bvRor .v0 .v0, .bvRev .v0 .v0, .bvFlip .v0 .v0 0, .stfStuff .v0 .v0,
   .stfUnstuff .v0 .v0, .parGen .v0 .v0, .parChk .v0 .v0, .frmEnc .v0 .v0 .v0 .v0, .frmDec .v0 .v0 .v0,
   .hamEnc .v0 .v0, .hamDec .v0 .v0, .hamDeci .v0 .v0 0, .hamSyn .v0 .v0, .crcMod .v0 .v0, .crcStep .v0 .v0,
   .crcEnc .v0 .v0, .crcRep .v0 .v0, .crcDec .v0 .v0]

theorem opcodeTable_eq_map_row : opcodeTable = oneOfEachRow.map Instr.row := rfl

theorem row_mem_opcodeTable (i : Instr) : i.row ∈ opcodeTable := by
  cases i <;> simp [Instr.row, opcodeTable]

theorem exists_row {row : Word × Word} (h : row ∈ opcodeTable) : ∃ i : Instr, i.row = row := by
  rw [opcodeTable_eq_map_row] at h
  obtain ⟨i, -, hi⟩ := List.mem_map.mp h
  exact ⟨i, hi⟩

/-- The mask of every row covers the opcode, so a word of a row has the opcode of the row. -/
theorem opcodeField_of_row {i : Instr} {w : Word} (h : w &&& i.row.1 = i.row.2) :
    opcodeField w = opcodeField i.row.2 :=
  extractLsb'_of_mask h (by cases i <;> simp only [Instr.row] <;> rfl)

/-- No two rows have the same opcode (R64). -/
theorem row_eq_of_opcode {row row' : Word × Word} (h : row ∈ opcodeTable) (h' : row' ∈ opcodeTable)
    (hop : opcodeField row.2 = opcodeField row'.2) : row = row' := by
  have hnodup : (opcodeTable.map fun row => opcodeField row.2).Nodup := by decide
  exact List.inj_on_of_nodup_map hnodup h h' hop

/-- The word of every command is a word of its row. -/
theorem encode_and_row (i : Instr) : encode i &&& i.row.1 = i.row.2 := by
  cases i with
  | bvFlip rd rs1 imm | hamDeci rd rs1 imm => exact (Laws.encodeI_row _ rd rs1 imm).trans rfl
  | frmEnc rd rs1 rs2 rs3 => exact Laws.CarriesItsRow.frmEnc rd rs1 rs2 rs3
  | frmDec rd rs1 rs2 => exact Laws.CarriesItsRow.frmDec rd rs1 rs2
  | _ => exact (Laws.encodeR2_row _ _ _).trans rfl

theorem and_row_of_decode {w : Word} {i : Instr} (h : decode w = .ok i) : w &&& i.row.1 = i.row.2 := by
  obtain ⟨-, rfl⟩ := encode_of_decode h
  exact encode_and_row i

/-- The mask of a row covers the fields that its format does not use, so a word of the row decodes. -/
theorem decode_of_row {j : Instr} {w : Word} (h : w &&& j.row.1 = j.row.2) : ∃ i, decode w = .ok i := by
  rw [decode, opcodeField_of_row h]
  cases j with
  | bvFlip | hamDeci =>
    simp only [Instr.row] at h ⊢
    exact ⟨_, decodeI_eq_ok_iff.mpr ⟨⟨extractLsb'_of_mask h rfl, extractLsb'_of_mask h rfl⟩, rfl⟩⟩
  | frmEnc =>
    simp only [Instr.row] at h ⊢
    exact ⟨_, decodeR4_eq_ok_iff.mpr ⟨extractLsb'_of_mask h rfl, rfl⟩⟩
  | frmDec =>
    simp only [Instr.row] at h ⊢
    exact ⟨_, decodeR3_eq_ok_iff.mpr ⟨⟨extractLsb'_of_mask h rfl, extractLsb'_of_mask h rfl⟩, rfl⟩⟩
  | _ =>
    simp only [Instr.row] at h ⊢
    exact ⟨_, decodeR2_eq_ok_iff.mpr
      ⟨⟨extractLsb'_of_mask h rfl, extractLsb'_of_mask h rfl, extractLsb'_of_mask h rfl⟩, rfl⟩⟩

end Sys2Proof
end

section
open Sys2Proof

/-- Settles O8: each format's decoder undoes its encoder, and the opcode of the word picks that decoder. -/
theorem decodeInvertsEncode : Obligations.DecodeInvertsEncode :=
  fun _ h => decode_encode h

/-- Settles O9: a legal word is its fields packed, those its format does not use being 0. -/
theorem encodeInvertsDecode : Obligations.EncodeInvertsDecode :=
  fun _ _ h => encode_of_decode h

/-- Settles O10: a row's mask covers the opcode and the unused fields, and no two rows share an opcode. -/
theorem decodeAcceptsExactlyTheTable : Obligations.DecodeAcceptsExactlyTheTable := by
  refine ⟨fun w => ⟨?_, ?_⟩, fun w i h => ⟨row_mem_opcodeTable i, and_row_of_decode h⟩, rfl, ?_⟩
  · rintro ⟨i, h⟩
    exact ⟨i.row, row_mem_opcodeTable i, and_row_of_decode h⟩
  · rintro ⟨row, hrow, h⟩
    obtain ⟨j, rfl⟩ := exists_row hrow
    exact decode_of_row h
  · intro row hrow row' hrow' w h h'
    obtain ⟨i, rfl⟩ := exists_row hrow
    obtain ⟨j, rfl⟩ := exists_row hrow'
    exact row_eq_of_opcode hrow hrow' ((opcodeField_of_row h).symm.trans (opcodeField_of_row h'))

/-- Settles O7, by evaluating the decoder. -/
theorem sampleWordsDecodeAsWritten : Obligations.SampleWordsDecodeAsWritten :=
  ⟨rfl, rfl, rfl, rfl, rfl, rfl, rfl, rfl, rfl, rfl, rfl, rfl⟩
end

section
/-! Completion (R70) and addressed accesses (R40, R66): each is answered with a next state, and takes nothing from
the accesses still pending. -/

namespace Sys2Proof.Machine

/-! ## The two ways a command ends (R70) -/

theorem finish_ends (s : State) (rd : VReg) {v : Verdict} (hv : v.Proper) :
    (∃ x n, Completed s rd x n (s.finish rd v)) ∨ (∃ k n, k ≠ .ok ∧ Failed s k n (s.finish rd v)) := by
  cases v with
  | success x n => exact .inl ⟨x, n, succeed_completed s rd x n⟩
  | failure k n => exact .inr ⟨k, n, hv, fail_failed s k n⟩

/-! ## An access answered with a next state, the pending accesses unchanged -/

@[simp] theorem State.finish_pending (s : State) (rd : VReg) (v : Verdict) :
    (s.finish rd v).pending = s.pending := by
  cases v <;> simp [State.finish, State.succeed, State.fail]

@[simp] theorem State.writeTarget_pending (s : State) (x : Target) (v : Nat) :
    (s.writeTarget x v).pending = s.pending := by
  cases x with
  | len r => simp only [State.writeTarget, State.writeLen]; split <;> simp
  | data r j => simp [State.writeTarget, State.writeData]
  | _ => rfl

/-- The outcome is a next state in which these accesses are pending. -/
def Continues (p : List HostEvent) (o : Host.Outcome State Fault Refusal) : Prop :=
  ∃ t, o = .next t ∧ t.pending = p

variable (s : State)

theorem exec_continues (i : Instr) : Continues s.pending (exec i s) :=
  ⟨_, exec_eq_finish i s, s.finish_pending _ _⟩

/-- Every word is answered, an illegal one too (R66). -/
theorem execute_continues (w : Word) : Continues s.pending (execute w s) := by
  cases hd : decode w with
  | ok i =>
    rw [execute_ok s hd]
    exact exec_continues _ i
  | error e =>
    rw [execute_error s hd]
    exact ⟨_, rfl, rfl⟩

theorem performRead_continues (off n : Nat) : Continues s.pending (performRead off n s) :=
  ⟨_, rfl, rfl⟩

theorem performWrite_continues (off n v : Nat) : Continues s.pending (performWrite off n v s) := by
  obtain ⟨-, hw⟩ | ⟨x, -, -, hw⟩ | ⟨-, hw⟩ := performWrite_cases off n v s <;> rw [hw]
  · exact execute_continues s _
  · exact ⟨_, rfl, s.writeTarget_pending x v⟩
  · exact ⟨s, rfl, rfl⟩

/-- Only a bus address outside the register space stops the machine (R40, log entry 2). -/
theorem perform_continues {e : HostEvent} (h : Addressed e) : Continues s.pending (perform e s) := by
  cases e with
  | reset => exact ⟨_, rfl, s.applyReset_pending⟩
  | read off n => exact performRead_continues s off n
  | write off n v => exact performWrite_continues s off n v
  | busRead addr n =>
    obtain ⟨hbase, htop⟩ := h
    obtain ⟨off, rfl⟩ := Nat.exists_eq_add_of_le hbase
    rw [perform_busRead_base_add (Nat.lt_of_add_lt_add_left htop)]
    exact performRead_continues s off n
  | busWrite addr n v =>
    obtain ⟨hbase, htop⟩ := h
    obtain ⟨off, rfl⟩ := Nat.exists_eq_add_of_le hbase
    rw [perform_busWrite_base_add (Nat.lt_of_add_lt_add_left htop)]
    exact performWrite_continues s off n v

/-! ## Addressed runs -/

variable {s}

theorem step_addressed (h : ∀ e ∈ s.pending, Addressed e) :
    ∃ t, step s = .next t ∧ ∀ e ∈ t.pending, Addressed e := by
  obtain ⟨-, hstep⟩ | ⟨e, rest, hpending, hstep⟩ := step_cases s
  · exact ⟨s, hstep, h⟩
  · rw [hpending, List.forall_mem_cons] at h
    obtain ⟨he, hrest⟩ := h
    obtain ⟨t, ht, hp⟩ := perform_continues { s with pending := rest, reply := none } he
    exact ⟨t, hstep.trans ht, hp ▸ hrest⟩

theorem neverStops_of_addressed (h : ∀ e ∈ s.pending, Addressed e) : NeverStops s := by
  intro k
  induction k generalizing s with
  | zero => exact ⟨s, rfl⟩
  | succ k ih =>
    obtain ⟨t, hstep, ht⟩ := step_addressed h
    obtain ⟨u, hu⟩ := ih ht
    exact ⟨u, (run_succ_of_step (M := Sys2Proof.core) hstep k).trans hu⟩

end Sys2Proof.Machine
end

section
open Sys2Proof Sys2Proof.Machine

/-- Settles O6, by induction on the steps: each is answered, and leaves a part of the pending accesses. -/
theorem addressedRunsNeverStop : Obligations.AddressedRunsNeverStop :=
  fun _ h => neverStops_of_addressed h

/-- Settles O11: a command completes its verdict, and no failure carries the code `OK`. -/
theorem commandEndsInSuccessOrFailure : Obligations.CommandEndsInSuccessOrFailure :=
  fun i s => ⟨_, exec_eq_finish i s, finish_ends s (dest i) (verdictOf_proper i s.reg)⟩
end

section
/-! The bit-vector unit (R81 to R86): `rotl` is the library's `List.rotate` by one, `rotr` is its inverse, and where
each bit of a reversed or flipped sequence comes from. -/

namespace Sys2Proof.Machine

theorem raises_of_verdictOf {i : Instr} {s : State} {k : Code} {v : Nat}
    (h : verdictOf i s.reg = .failure k v) : Raises i s k v :=
  ⟨_, exec_eq_finish i s, h ▸ fail_failed s k v⟩

/-! ## Rotation (R82, R83, R86) -/

theorem rotl_eq_rotate (x : BitSeq) : rotl x = x.rotate 1 := by
  cases x <;> simp [rotl]

theorem rotlN_eq_rotate (r : Nat) (x : BitSeq) : rotlN r x = x.rotate r := by
  induction r generalizing x with
  | zero => rw [rotlN, List.rotate_zero]
  | succ r ih => rw [rotlN, ih, rotl_eq_rotate, List.rotate_rotate, Nat.add_comm]

/-- One rotation may be made before the others or after them. -/
theorem rotlN_rotl (r : Nat) (x : BitSeq) : rotlN r (rotl x) = rotl (rotlN r x) := by
  simp only [rotlN_eq_rotate, rotl_eq_rotate, List.rotate_rotate, Nat.add_comm]

theorem rotlN_full_turn (x : BitSeq) : rotlN x.length x = x := by
  rw [rotlN_eq_rotate, List.rotate_length]

/-- `rotr` brings the last bit to the front. -/
theorem rotr_concat (s : BitSeq) (b : Bool) : rotr (s ++ [b]) = b :: s := by
  simp [rotr, slice, List.take_of_length_le]

theorem rotr_rotl (x : BitSeq) : rotr (rotl x) = x := by
  cases x with
  | nil => rfl
  | cons b s => exact rotr_concat s b

theorem rotl_rotr (x : BitSeq) : rotl (rotr x) = x := by
  obtain rfl | ⟨s, b, rfl⟩ := x.eq_nil_or_concat'
  · rfl
  · rw [rotr_concat, rotl]

/-- The innermost rotations cancel first, by induction on their number. -/
theorem rotrN_rotlN (r : Nat) (x : BitSeq) : rotrN r (rotlN r x) = x := by
  induction r with
  | zero => rfl
  | succ r ih => rw [rotlN, rotlN_rotl, rotrN, rotr_rotl, ih]

theorem rotrN_full_turn (x : BitSeq) : rotrN x.length x = x :=
  calc rotrN x.length x = rotrN x.length (rotlN x.length x) := by rw [rotlN_full_turn]
    _ = x := rotrN_rotlN x.length x

theorem rev_rotl (x : BitSeq) : rev (rotl x) = rotr (rev x) := by
  cases x with
  | nil => rfl
  | cons b s => simp [rotl, rev, rotr_concat]

theorem getElem?_rotl (x : BitSeq) {i : Nat} (h : i < x.length) : (rotl x)[i]? = x[(i + 1) % x.length]? := by
  rw [rotl_eq_rotate, List.getElem?_rotate h]

/-- A bit's place after `rotr` is found by rotating back. -/
theorem getElem?_rotr (x : BitSeq) {i : Nat} (h : i < x.length) : (rotr x)[(i + 1) % x.length]? = x[i]? := by
  have hback := getElem?_rotl (rotr x) (i := i) (by rwa [rotr_length])
  rw [rotl_rotr, rotr_length] at hback
  exact hback.symm

/-! ## Reversal and inversion (R84, R85) -/

theorem getElem?_rev (x : BitSeq) {i : Nat} (h : i < x.length) : (rev x)[i]? = x[x.length - 1 - i]? :=
  List.getElem?_reverse h

theorem getElem?_flip (x : BitSeq) (p i : Nat) :
    (flip x p)[i]? = if i = p then x[i]?.map not else x[i]? := by
  rcases eq_or_ne i p with rfl | hne
  · rw [if_pos rfl]
    rcases Nat.lt_or_ge i x.length with hin | hout
    · simp [flip, cell_of_lt x hin, hin]
    · simp [flip, hout]
  · rw [if_neg hne, flip, List.getElem?_set_ne hne.symm]

end Sys2Proof.Machine
end

section
open Sys2Proof Sys2Proof.Machine

/-- Settles O15: the padding of R81 is below eight, and `VMAX` is a whole number of bytes. -/
theorem pad8FillsUpTheLastByte : Obligations.Pad8FillsUpTheLastByte := by
  intro rd rs1 s
  refine ⟨(8 - (s.reg rs1).length % 8) % 8, Nat.mod_lt _ (by decide), by omega, fun hfits => ?_,
    succeeds_of_verdictOf (i := .bvPad8 rd rs1) rfl⟩
  simpa [pad8] using pad8_fits hfits

/-- Settles O17: `rotl` is `List.rotate` by one, whose bits the library gives. -/
theorem rotateLeftMovesFirstBitLast : Obligations.RotateLeftMovesFirstBitLast := by
  intro rd rs1 s
  refine ⟨rotl (s.reg rs1), succeeds_of_verdictOf (i := .bvRol rd rs1) rfl, rotl_length _, fun i hi => ?_⟩
  rw [rotl_length] at hi ⊢
  exact getElem?_rotl _ hi

/-- Settles O18: rotating the answer back to the left gives the source. -/
theorem rotateRightMovesLastBitFirst : Obligations.RotateRightMovesLastBitFirst := by
  intro rd rs1 s
  refine ⟨rotr (s.reg rs1), succeeds_of_verdictOf (i := .bvRor rd rs1) rfl, rotr_length _, fun i hi => ?_⟩
  rw [rotr_length] at hi ⊢
  exact getElem?_rotr _ hi

/-- Settles O19: the answer is the source's `List.reverse`. -/
theorem reverseReadsBackwards : Obligations.ReverseReadsBackwards := by
  intro rd rs1 s
  refine ⟨rev (s.reg rs1), succeeds_of_verdictOf (i := .bvRev rd rs1) rfl, rev_length _, fun i hi => ?_⟩
  rw [rev_length] at hi ⊢
  exact getElem?_rev _ hi

/-- Settles O20: the verdict is the flipped sequence below the length, and the refusal from the length on. -/
theorem flipInvertsOneBit : Obligations.FlipInvertsOneBit := by
  intro rd rs1 p s
  constructor
  · intro hin
    exact ⟨flip (s.reg rs1) p, succeeds_of_verdictOf (i := .bvFlip rd rs1 p) (flipAt_of_lt hin), flip_length _ p,
      getElem?_flip _ p⟩
  · intro hout
    exact raises_of_verdictOf (flipAt_of_ge hout)

/-- Settles O21: `rotr` undoes `rotl`, and a rotation by the length is the identity. -/
theorem rotationLaws : Obligations.RotationLaws :=
  fun x => ⟨rotr_rotl x, rotl_rotr x, rotlN_full_turn x, rotrN_full_turn x, fun r => rotrN_rotlN r x, rev_rotl x⟩
end

section
/-! What a command's completion says of its verdict (R70): the converse of `succeeds_of_verdictOf` and
`raises_of_verdictOf`; and the same for the capacity check (R71) and the units of the framer. -/

namespace Sys2Proof.Machine

/-! ## The verdict behind a completion (R70) -/

/-- A success is no failure, since no failure carries the code `OK`. -/
theorem verdictOf_of_succeeds {i : Instr} {s : State} {x : BitSeq} {v : Nat} (h : Succeeds i s (dest i) x v) :
    ∃ w, verdictOf i s.reg = .success x w := by
  obtain ⟨t, hexec, hdone⟩ := h
  obtain rfl : s.finish (dest i) (verdictOf i s.reg) = t := by simpa [exec_eq_finish] using hexec
  have hproper := verdictOf_proper i s.reg
  cases hv : verdictOf i s.reg with
  | success y w =>
    rw [hv] at hdone
    have hy : y = x := (succeed_completed s (dest i) y w).result.symm.trans hdone.result
    exact ⟨w, hy ▸ rfl⟩
  | failure k w =>
    rw [hv] at hdone hproper
    exact absurd hdone.status hproper

theorem verdictOf_of_raises {i : Instr} {s : State} {k : Code} {v : Nat} (hk : k ≠ .ok) (h : Raises i s k v) :
    ∃ w, verdictOf i s.reg = .failure k w := by
  obtain ⟨t, hexec, hfail⟩ := h
  obtain rfl : s.finish (dest i) (verdictOf i s.reg) = t := by simpa [exec_eq_finish] using hexec
  cases hv : verdictOf i s.reg with
  | success y w =>
    rw [hv] at hfail
    exact absurd hfail.status.symm hk
  | failure k' w =>
    rw [hv] at hfail
    exact ⟨w, (hfail.status : k' = k) ▸ rfl⟩

/-! ## The capacity check (R71) -/

theorem ifFits_of_le {x : BitSeq} (h : x.length ≤ Config.vmax) : ifFits x = .success x 0 := if_pos h

theorem ifFits_of_gt {x : BitSeq} (h : Config.vmax < x.length) : ifFits x = .failure .operandError 0 :=
  if_neg (Nat.not_le.mpr h)

theorem eq_of_ifFits_eq_success {x y : BitSeq} {w : Nat} (h : ifFits x = .success y w) : x = y := by
  obtain ⟨-, hx⟩ | ⟨-, hx⟩ := ifFits_cases x <;> rw [hx] at h
  · exact (Verdict.success.inj h).1
  · cases h

theorem gt_of_ifFits_eq_failure {x : BitSeq} {k : Code} {w : Nat} (h : ifFits x = .failure k w) :
    Config.vmax < x.length := by
  obtain ⟨-, hx⟩ | ⟨hlong, -⟩ := ifFits_cases x
  · rw [hx] at h; cases h
  · exact hlong

/-! ## What STF.STUFF and STF.UNSTUFF answered (R105, R106) -/

theorem eq_stuff_of_succeeds {rd rs1 : VReg} {s : State} {y : BitSeq} {v : Nat}
    (h : Succeeds (.stfStuff rd rs1) s rd y v) : stuff (s.reg rs1) = y :=
  (verdictOf_of_succeeds (i := .stfStuff rd rs1) h).elim fun _ => eq_of_ifFits_eq_success

theorem eq_unstuff_of_succeeds {rd rs1 : VReg} {s : State} {y : BitSeq} {v : Nat}
    (h : Succeeds (.stfUnstuff rd rs1) s rd y v) : unstuff (s.reg rs1) = y :=
  (verdictOf_of_succeeds (i := .stfUnstuff rd rs1) h).elim fun _ hv => (Verdict.success.inj hv).1

end Sys2Proof.Machine
end

section
/-! Stuffing (R102 to R104). A statement about `stuffFrom c x` speaks of the `c` 1s just before `x` too: the run
that the counter counts is put back in front. -/

namespace Sys2Proof.Machine

/-! ## Un-stuffing is the inverse of stuffing (R104 (a)) -/

theorem unstuffFrom_stuffFrom (x : BitSeq) {c : Nat} (hc : c < 5) : unstuffFrom c (stuffFrom c x) = x := by
  induction x generalizing c with
  | nil => rfl
  | cons b x ih =>
    cases b with
    | false => simp [stuffFrom, unstuffFrom, hc, ih]
    | true =>
      by_cases hfull : c + 1 = 5
      · simp [stuffFrom, unstuffFrom, hfull, ih]
      · simp [stuffFrom, unstuffFrom, hfull, ih (show c + 1 < 5 by omega)]

@[simp] theorem unstuff_stuff (x : BitSeq) : unstuff (stuff x) = x := unstuffFrom_stuffFrom x (by decide)

/-! ## Runs of 1s in a stuffed sequence (R102, R104 (b)) -/

/-- Of a sequence that begins with exactly `c` 1s, a run of `n ≥ c` 1s is these `c`, or lies beyond the 0. -/
theorem run_of_leading_ones {c n : Nat} {y a b : BitSeq} (hcn : c ≤ n)
    (h : List.replicate c true ++ false :: y = a ++ List.replicate n true ++ b) :
    (a = [] ∧ c = n ∧ b = false :: y) ∨ ∃ a', y = a' ++ List.replicate n true ++ b := by
  induction a generalizing c with
  | nil =>
    obtain ⟨m, rfl⟩ := Nat.exists_eq_add_of_le hcn
    rw [List.nil_append, List.replicate_add, List.append_assoc, List.append_cancel_left_eq] at h
    cases m with
    | zero => exact .inl ⟨rfl, rfl, h.symm⟩
    | succ m => simp [List.replicate_succ] at h
  | cons e a ih =>
    cases c with
    | zero => exact .inr ⟨a, (List.cons.inj h).2⟩
    | succ c =>
      obtain ⟨-, hc, -⟩ | hbeyond := ih (Nat.le_of_succ_le hcn) (List.cons.inj h).2
      · omega
      · exact .inr hbeyond

theorem zero_follows_run_of_stuffFrom (x : BitSeq) {c : Nat} (hc : c < 5) {a b : BitSeq}
    (h : List.replicate c true ++ stuffFrom c x = a ++ List.replicate 5 true ++ b) : b.head? = some false := by
  induction x generalizing c a with
  | nil =>
    have hlen := congrArg List.length h
    simp [stuffFrom] at hlen
    omega
  | cons e x ih =>
    cases e with
    | false =>
      obtain ⟨-, hfive, -⟩ | ⟨a', hrest⟩ := run_of_leading_ones (Nat.le_of_lt hc) h
      · omega
      · exact ih (c := 0) (by decide) hrest
    | true =>
      by_cases hfull : c + 1 = 5
      · obtain rfl : c = 4 := by omega
        obtain ⟨-, -, rfl⟩ | ⟨a', hrest⟩ := run_of_leading_ones (c := 5) (Nat.le_refl 5) h
        · rfl
        · exact ih (c := 0) (by decide) hrest
      · refine ih (c := c + 1) (by omega) (a := a) ?_
        rw [← h, stuffFrom, if_neg hfull, List.replicate_succ', List.append_assoc, List.singleton_append]

theorem zero_follows_run_of_stuff (x a b : BitSeq) (h : stuff x = a ++ List.replicate 5 true ++ b) :
    b.head? = some false :=
  zero_follows_run_of_stuffFrom x (c := 0) (by decide) h

theorem no_six_ones_in_stuff (x : BitSeq) : ¬ List.replicate 6 true <:+: stuff x := by
  rintro ⟨a, b, h⟩
  have hzero := zero_follows_run_of_stuff x a (true :: b) (by rw [← h]; simp [List.replicate])
  cases hzero

theorem no_flag_in_stuff (x : BitSeq) : ¬ FLAG <:+: stuff x := fun h =>
  no_six_ones_in_stuff x (List.IsInfix.trans ⟨[false], [false], rfl⟩ h)

/-! ## Length, and sequences without a run (R102, R104 (b)) -/

theorem stuffFrom_length_le (x : BitSeq) {c : Nat} (hc : c < 5) :
    (stuffFrom c x).length ≤ x.length + (x.length + c) / 5 := by
  induction x generalizing c with
  | nil => exact Nat.zero_le _
  | cons b x ih =>
    have hzero := ih (c := 0) (by decide)
    cases b with
    | false =>
      simp only [stuffFrom, List.length_cons]
      omega
    | true =>
      by_cases hfull : c + 1 = 5
      · simp only [stuffFrom, hfull, if_true, List.length_cons]
        omega
      · have hnext := ih (c := c + 1) (by omega)
        simp only [stuffFrom, hfull, if_false, List.length_cons]
        omega

theorem stuffFrom_of_no_run (x : BitSeq) {c : Nat} (hc : c < 5)
    (h : ¬ List.replicate 5 true <:+: List.replicate c true ++ x) : stuffFrom c x = x := by
  induction x generalizing c with
  | nil => rfl
  | cons b x ih =>
    cases b with
    | false =>
      have hx : ¬ List.replicate 5 true <:+: x := fun hrun =>
        h (hrun.trans ⟨List.replicate c true ++ [false], [], by simp⟩)
      rw [stuffFrom, ih (c := 0) (by decide) hx]
    | true =>
      have hmove : List.replicate c true ++ true :: x = List.replicate (c + 1) true ++ x := by
        simp [List.replicate_succ']
      rw [hmove] at h
      have hfull : c + 1 ≠ 5 := fun hfive => h ⟨[], x, by rw [hfive]; rfl⟩
      rw [stuffFrom, if_neg hfull, ih (by omega) h]

theorem stuff_of_no_run {x : BitSeq} (h : ¬ List.replicate 5 true <:+: x) : stuff x = x :=
  stuffFrom_of_no_run x (c := 0) (by decide) h

/-- Where stuffing changes nothing, un-stuffing, its inverse, changes nothing. -/
theorem unstuff_of_no_run {x : BitSeq} (h : ¬ List.replicate 5 true <:+: x) : unstuff x = x := by
  rw [← stuff_of_no_run h, unstuff_stuff, stuff_of_no_run h]

theorem stuff_unstuff_iff (y : BitSeq) : stuff (unstuff y) = y ↔ ∃ x, y = stuff x := by
  constructor
  · intro h
    exact ⟨unstuff y, h.symm⟩
  · rintro ⟨x, rfl⟩
    rw [unstuff_stuff]

/-! ## Un-stuffing by position (R103) -/

/-- The number of 1s just before position `i` of `y`: the counter of `unstuff` there (R103). -/
def onesBefore (y : BitSeq) : Nat → Nat
  | 0 => 0
  | i + 1 => if cell y i then onesBefore y i + 1 else 0

/-- Position `i` of `y` is not a 0 preceded by five 1s. -/
def kept (y : BitSeq) (i : Nat) : Bool :=
  cell y i || decide (i < 5) ||
    !(cell y (i - 1) && cell y (i - 2) && cell y (i - 3) && cell y (i - 4) && cell y (i - 5))

theorem onesBefore_le (y : BitSeq) (i : Nat) : onesBefore y i ≤ i := by
  induction i with
  | zero => exact Nat.le_refl 0
  | succ i ih =>
    unfold onesBefore
    split <;> omega

theorem succ_le_onesBefore_iff (y : BitSeq) (n i : Nat) :
    n + 1 ≤ onesBefore y (i + 1) ↔ cell y i = true ∧ n ≤ onesBefore y i := by
  rw [onesBefore]
  split_ifs with hbit <;> simp [hbit]

theorem kept_eq (y : BitSeq) (i : Nat) : kept y i = (cell y i || decide (onesBefore y i < 5)) := by
  unfold kept
  rcases Nat.lt_or_ge i 5 with hlt | hge
  · have hones := onesBefore_le y i
    simp [hlt, show onesBefore y i < 5 by omega]
  · obtain ⟨j, rfl⟩ := Nat.exists_eq_add_of_le' hge
    rw [Bool.or_assoc]
    congr 1
    simp [← not_le, succ_le_onesBefore_iff, Bool.or_assoc]

theorem unstuffFrom_drop (y : BitSeq) (n : Nat) {i : Nat} (h : i + n = y.length) :
    unstuffFrom (onesBefore y i) (y.drop i) = ((List.range' i n).filter (kept y)).map (cell y) := by
  induction n generalizing i with
  | zero => rw [List.drop_of_length_le (by omega)]; rfl
  | succ n ih =>
    have hrest := ih (i := i + 1) (by omega)
    rw [onesBefore] at hrest
    rw [List.drop_eq_getElem_cons (by omega), ← cell_of_lt y (by omega), List.range'_succ, List.filter_cons, kept_eq]
    cases hbit : cell y i with
    | true => simpa [unstuffFrom, hbit] using hrest
    | false =>
      by_cases hrun : onesBefore y i < 5
      · simpa [unstuffFrom, hbit, hrun, Nat.not_le.mpr hrun] using hrest
      · simpa [unstuffFrom, hbit, hrun, Nat.not_lt.mp hrun] using hrest

theorem unstuff_eq_kept (y : BitSeq) : unstuff y = ((List.range y.length).filter (kept y)).map (cell y) := by
  rw [List.range_eq_range']
  exact unstuffFrom_drop y y.length (i := 0) (Nat.zero_add _)

end Sys2Proof.Machine
end

section
/-! Parity (R107, R108): the sequences PAR.CHK and FRM.DEC accept are those of the form `withParity B`. -/

namespace Sys2Proof.Machine

theorem parity_eq_iff (s : BitSeq) (b : Bool) : parity s = b ↔ (s ++ [b]).count true % 2 = 0 := by
  have hweight := parity_eq_weight s
  rw [weight] at hweight
  cases b with
  | false => simp [hweight]
  | true =>
    rw [hweight, decide_eq_true_iff, List.count_append, List.count_singleton_self]
    omega

theorem count_withParity (x : BitSeq) : (withParity x).count true % 2 = 0 :=
  (parity_eq_iff x (parity x)).mp rfl

theorem withParity_ne_nil (x : BitSeq) : withParity x ≠ [] := by simp [withParity]

@[simp] theorem withParity_length (x : BitSeq) : (withParity x).length = x.length + 1 := List.length_append

@[simp] theorem dropLast_withParity (x : BitSeq) : (withParity x).dropLast = x := List.dropLast_concat

theorem eq_withParity_of_even {x : BitSeq} (hne : x ≠ []) (heven : x.count true % 2 = 0) :
    x = withParity x.dropLast := by
  obtain rfl | ⟨B, b, rfl⟩ := x.eq_nil_or_concat'
  · exact absurd rfl hne
  · rw [List.dropLast_concat, withParity, (parity_eq_iff B b).mpr heven]

/-- The two ways PAR.CHK and FRM.DEC find their source (R108). -/
theorem bad_or_withParity (x : BitSeq) : (x = [] ∨ x.count true % 2 = 1) ∨ ∃ B, x = withParity B := by
  by_cases hne : x = []
  · exact .inl (.inl hne)
  · rcases Nat.mod_two_eq_zero_or_one (x.count true) with heven | hodd
    · exact .inr ⟨_, eq_withParity_of_even hne heven⟩
    · exact .inl (.inr hodd)

/-- The test of PAR.CHK and FRM.DEC, in the form both write it. -/
theorem bad_parity_iff (x : BitSeq) :
    (x.length = 0 ∨ parity (slice x 0 (x.length - 1)) ≠ cell x (x.length - 1)) ↔
      x = [] ∨ x.count true % 2 = 1 := by
  obtain rfl | ⟨B, b, rfl⟩ := x.eq_nil_or_concat'
  · simp
  · have hbit : cell (B ++ [b]) B.length = b := by simp [cell]
    have hbits : slice (B ++ [b]) 0 B.length = B := by simp [slice]
    rw [List.length_append, List.length_singleton, Nat.add_sub_cancel, hbit, hbits, ne_eq, parity_eq_iff]
    simp

theorem parityChecked_of_bad {x : BitSeq} (h : x = [] ∨ x.count true % 2 = 1) :
    parityChecked x = .failure .checksumMismatch 0 := by
  have hbad := (bad_parity_iff x).mpr h
  unfold parityChecked
  split_ifs with hempty hbit
  · rfl
  · rfl
  · exact absurd hbad (not_or.mpr ⟨hempty, hbit⟩)

theorem withParity_passes (B : BitSeq) : ¬ ((withParity B).length = 0 ∨
    parity (slice (withParity B) 0 ((withParity B).length - 1)) ≠ cell (withParity B) ((withParity B).length - 1)) := by
  rw [bad_parity_iff]
  simp [withParity_ne_nil, count_withParity]

theorem slice_withParity (B : BitSeq) : slice (withParity B) 0 ((withParity B).length - 1) = B := by
  simp [slice, withParity]

@[simp] theorem parityChecked_withParity (B : BitSeq) : parityChecked (withParity B) = .success B 0 := by
  obtain ⟨hempty, hbit⟩ := not_or.mp (withParity_passes B)
  rw [parityChecked, if_neg hempty, if_neg hbit, slice_withParity]

/-- The parity of a difference is the difference of the parities (R113 (c)). -/
theorem count_xorSeq (a b : BitSeq) (h : a.length = b.length) :
    (xorSeq a b).count true % 2 = (a.count true + b.count true) % 2 := by
  induction a generalizing b with
  | nil =>
    obtain rfl := List.length_eq_zero_iff.mp h.symm
    rfl
  | cons p a ih =>
    obtain ⟨q, b, rfl⟩ := List.exists_cons_of_length_eq_add_one h.symm
    have hrest := ih b (Nat.succ.inj h)
    rw [xorSeq] at hrest ⊢
    cases p <;> cases q <;> simp <;> omega

end Sys2Proof.Machine
end

section
/-! The flag scan (R111), as an induction over the bits still to scan, and the three flags of a frame's body. -/

namespace Sys2Proof.Machine

/-! ## What the scan finds -/

theorem slice_window (B : BitSeq) (i n : Nat) : slice B i (i + n) = (B.drop i).take n := by
  rw [slice, List.drop_take, Nat.add_sub_cancel_left]

/-- A start found lies beyond the bits to skip, and the flag stands there. -/
theorem mem_flagscanFrom (X : BitSeq) {i skip j : Nat} (h : j ∈ flagscanFrom i skip X) :
    ∃ k, j = i + k ∧ skip ≤ k ∧ (X.drop k).take 8 = FLAG := by
  induction X generalizing i skip with
  | nil => cases h
  | cons b X ih =>
    cases skip with
    | succ skip =>
      obtain ⟨k, hj, hk, hflag⟩ := ih h
      exact ⟨k + 1, by omega, by omega, hflag⟩
    | zero =>
      rw [flagscanFrom] at h
      split at h
      · next hhere =>
        obtain rfl | hlater := List.mem_cons.mp h
        · exact ⟨0, rfl, Nat.le_refl 0, hhere⟩
        · obtain ⟨k, hj, -, hflag⟩ := ih hlater
          exact ⟨k + 1, by omega, by omega, hflag⟩
      · obtain ⟨k, hj, -, hflag⟩ := ih h
        exact ⟨k + 1, by omega, by omega, hflag⟩

theorem flagscanFrom_pairwise (X : BitSeq) (i skip : Nat) :
    (flagscanFrom i skip X).Pairwise (fun j k => j + 8 ≤ k) := by
  induction X generalizing i skip with
  | nil => exact List.Pairwise.nil
  | cons b X ih =>
    cases skip with
    | succ skip => exact ih (i + 1) skip
    | zero =>
      rw [flagscanFrom]
      split
      · refine List.pairwise_cons.mpr ⟨fun j hj => ?_, ih (i + 1) 7⟩
        obtain ⟨k, rfl, hk, -⟩ := mem_flagscanFrom X hj
        omega
      · exact ih (i + 1) 0

/-- A flag that no found one overlaps from the left is found. -/
theorem flagscanFrom_covers (X : BitSeq) {i skip k : Nat} (hk : skip ≤ k) (hflag : (X.drop k).take 8 = FLAG) :
    ∃ j ∈ flagscanFrom i skip X, j ≤ i + k ∧ i + k < j + 8 := by
  induction X generalizing i skip k with
  | nil => simp [FLAG] at hflag
  | cons b X ih =>
    cases skip with
    | succ skip =>
      obtain ⟨k, rfl⟩ := Nat.exists_eq_add_of_le' (Nat.one_le_of_lt hk)
      obtain ⟨j, hj, hle, hlt⟩ := ih (i := i + 1) (Nat.le_of_succ_le_succ hk) hflag
      exact ⟨j, hj, by omega, by omega⟩
    | zero =>
      rw [flagscanFrom]
      split
      · rcases Nat.lt_or_ge k 8 with hnear | hfar
        · exact ⟨i, List.mem_cons_self, by omega, by omega⟩
        · obtain ⟨k, rfl⟩ := Nat.exists_eq_add_of_le' (show 1 ≤ k by omega)
          obtain ⟨j, hj, hle, hlt⟩ := ih (i := i + 1) (skip := 7) (by omega) hflag
          exact ⟨j, List.mem_cons_of_mem i hj, by omega, by omega⟩
      · next hnone =>
        cases k with
        | zero => exact absurd hflag hnone
        | succ k =>
          obtain ⟨j, hj, hle, hlt⟩ := ih (i := i + 1) (Nat.zero_le k) hflag
          exact ⟨j, hj, by omega, by omega⟩

/-! ## The body of a frame has three flags -/

theorem flagscanFrom_skip (u X : BitSeq) (i : Nat) :
    flagscanFrom i u.length (u ++ X) = flagscanFrom (i + u.length) 0 X := by
  induction u generalizing i with
  | nil => rfl
  | cons b u ih =>
    rw [List.length_cons, List.cons_append, flagscanFrom, ih]
    congr 1
    omega

theorem flagscanFrom_flag (X : BitSeq) (i : Nat) :
    flagscanFrom i 0 (FLAG ++ X) = i :: flagscanFrom (i + 8) 0 X := by
  have hskip := flagscanFrom_skip FLAG.tail X (i + 1)
  exact congrArg (i :: ·) hskip

/-- A run of 1s that begins in `y` ends in `y`, where no 1 follows `y`. -/
theorem ones_within_of_take {y X : BitSeq} {n : Nat} (hX : X.head? ≠ some true)
    (h : (y ++ X).take n = List.replicate n true) : List.replicate n true <:+: y := by
  rcases Nat.lt_or_ge y.length n with hshort | hlong
  · refine absurd ?_ hX
    have hbit : ((y ++ X).take n)[y.length]? = some true := by simp [h, hshort]
    rw [List.getElem?_take_of_lt hshort, List.getElem?_append_right (Nat.le_refl _), Nat.sub_self] at hbit
    rwa [List.head?_eq_getElem?]
  · rw [List.take_append_of_le_length hlong] at h
    exact ⟨[], y.drop n, h ▸ List.take_append_drop n y⟩

/-- No flag starts in a field without six 1s, where no 1 follows the field (R111). -/
theorem flagscanFrom_field (y X : BitSeq) (i : Nat) (hy : ¬ List.replicate 6 true <:+: y)
    (hX : X.head? ≠ some true) : flagscanFrom i 0 (y ++ X) = flagscanFrom (i + y.length) 0 X := by
  induction y generalizing i with
  | nil => rfl
  | cons b y ih =>
    have hrest : ¬ List.replicate 6 true <:+: y := fun hrun => hy (hrun.trans (List.suffix_cons b y).isInfix)
    have hflag : (b :: (y ++ X)).take 8 ≠ FLAG := fun h => by
      have hrun : (y ++ X).take 6 = List.replicate 6 true := by
        simpa [FLAG, List.take_take] using congrArg (fun w => (w.drop 1).take 6) h
      exact hrest (ones_within_of_take hX hrun)
    rw [List.cons_append, flagscanFrom, if_neg hflag, ih (i + 1) hrest, List.length_cons, Nat.add_right_comm,
      Nat.add_assoc]

theorem flagscanFrom_stuff (x X : BitSeq) (i : Nat) (hX : X.head? ≠ some true) :
    flagscanFrom i 0 (stuff x ++ X) = flagscanFrom (i + (stuff x).length) 0 X :=
  flagscanFrom_field (stuff x) X i (no_six_ones_in_stuff x) hX

theorem head_flag_append (X : BitSeq) : (FLAG ++ X).head? ≠ some true := by simp [FLAG]

theorem flagscan_frameBody (p d s : BitSeq) :
    flagscan (frameBody p d s) = [0, 8 + (stuff d).length, 16 + (stuff d).length + (stuff s).length] := by
  have hbody : frameBody p d s = FLAG ++ (stuff d ++ (FLAG ++ (stuff s ++ (FLAG ++ (stuff p ++ []))))) := by
    simp [frameBody]
  rw [flagscan, hbody, flagscanFrom_flag, flagscanFrom_stuff d _ _ (head_flag_append _), flagscanFrom_flag,
    flagscanFrom_stuff s _ _ (head_flag_append _), flagscanFrom_flag, flagscanFrom_stuff p [] _ (by simp),
    flagscanFrom]
  simp only [List.cons.injEq, and_true, true_and]
  omega

end Sys2Proof.Machine
end

section
/-! The framer (R109, R110, R112): what FRM.DEC answers, by the checks in their order, and the fields of a body. -/

namespace Sys2Proof.Machine

/-! ## FRM.DEC check by check (R112) -/

theorem slice_to_end (B : BitSeq) (i : Nat) : slice B i B.length = B.drop i := by
  rw [slice, List.take_length]

theorem frameDecoded_of_bad {f : BitSeq} (h : f = [] ∨ f.count true % 2 = 1) (a : BitSeq) :
    frameDecoded f a = .failure .checksumMismatch 0 :=
  if_pos ((bad_parity_iff f).mpr h)

theorem frameDecoded_of_count {B : BitSeq} (h : (flagscan B).length ≠ 3) (a : BitSeq) :
    frameDecoded (withParity B) a = .failure .frameNotFound (min (flagscan B).length 65535) := by
  unfold frameDecoded
  dsimp only
  rw [if_neg (withParity_passes B), slice_withParity]
  split
  · next hthree => exact absurd (by rw [hthree]; rfl) h
  · rfl

theorem frameDecoded_of_flags {B : BitSeq} {f0 f1 f2 : Nat} (h : flagscan B = [f0, f1, f2]) (a : BitSeq) :
    frameDecoded (withParity B) a =
      if unstuff (slice B (f0 + 8) f1) ≠ a then .failure .addressMismatch 0
      else .success (unstuff (B.drop (f2 + 8))) 0 := by
  unfold frameDecoded
  dsimp only
  rw [if_neg (withParity_passes B), slice_withParity, h, ← slice_to_end]

/-- FRM.DEC rejects for parity only what is no `withParity B`. -/
theorem frameDecoded_withParity_ne (B a : BitSeq) (w : Nat) :
    frameDecoded (withParity B) a ≠ .failure .checksumMismatch w := by
  by_cases hcount : (flagscan B).length = 3
  · obtain ⟨f0, f1, f2, hflags⟩ := List.length_eq_three.mp hcount
    rw [frameDecoded_of_flags hflags]
    split <;> simp
  · rw [frameDecoded_of_count hcount]
    simp

/-! ## The frame (R109) -/

theorem frame_length (p d s : BitSeq) :
    (frame p d s).length = 25 + (stuff d).length + (stuff s).length + (stuff p).length := by
  simp only [frame, withParity_length, frameBody, List.length_append, FLAG, List.length_cons, List.length_nil]
  omega

theorem destination_field (p d s : BitSeq) : slice (frameBody p d s) 8 (8 + (stuff d).length) = stuff d := by
  rw [slice_window, frameBody]
  simp [FLAG]

theorem payload_field (p d s : BitSeq) :
    (frameBody p d s).drop (16 + (stuff d).length + (stuff s).length + 8) = stuff p := by
  rw [frameBody]
  exact List.drop_left' (by simp [FLAG]; omega)

/-- R113 (a), (b): the three flags of the body give back the fields, and un-stuffing their contents. -/
theorem frameDecoded_frame (p d s a : BitSeq) :
    frameDecoded (frame p d s) a = if d ≠ a then .failure .addressMismatch 0 else .success p 0 := by
  rw [frame, frameDecoded_of_flags (flagscan_frameBody p d s), Nat.zero_add, destination_field, payload_field,
    unstuff_stuff, unstuff_stuff]

/-! ## The framer and its units (R113 (e)) -/

/-- FRM.ENC and PAR.GEN end alike where PAR.GEN's source is the body of the frame. -/
theorem frmEnc_agrees_parGen {rd rs1 rs2 rs3 r : VReg} {s u : State}
    (h : u.reg r = frameBody (s.reg rs1) (s.reg rs2) (s.reg rs3)) :
    ∃ t t', exec (.frmEnc rd rs1 rs2 rs3) s = .next t ∧ exec (.parGen rd r) u = .next t' ∧
      t.status = t'.status ∧ t.info = t'.info ∧ (t.status = .ok → t.reg rd = t'.reg rd) := by
  have hv : verdictOf (.frmEnc rd rs1 rs2 rs3) s.reg = verdictOf (.parGen rd r) u.reg := by
    simp only [verdictOf, frame, h]
  exact ⟨_, _, exec_eq_finish (.frmEnc rd rs1 rs2 rs3) s, hv ▸ exec_eq_finish (.parGen rd r) u,
    finish_agrees (verdictOf_proper _ _) rd s u⟩

theorem frmEnc_raises_of_stfStuff {rd rs1 rs2 rs3 a r : VReg} {s : State} (hr : r ∈ [rs1, rs2, rs3])
    (h : Raises (.stfStuff a r) s .operandError 0) : Raises (.frmEnc rd rs1 rs2 rs3) s .operandError 0 := by
  obtain ⟨w, hv⟩ := verdictOf_of_raises (by decide) h
  have hlong : Config.vmax < (stuff (s.reg r)).length := gt_of_ifFits_eq_failure hv
  refine raises_of_verdictOf (ifFits_of_gt ?_)
  rw [frame_length]
  simp only [List.mem_cons, List.not_mem_nil, or_false] at hr
  obtain rfl | rfl | rfl := hr <;> omega

theorem parChk_raises_iff (rd rs1 : VReg) (s : State) : Raises (.parChk rd rs1) s .checksumMismatch 0 ↔
    s.reg rs1 = [] ∨ (s.reg rs1).count true % 2 = 1 := by
  constructor
  · intro h
    obtain ⟨w, hv⟩ := verdictOf_of_raises (by decide) h
    obtain hbad | ⟨B, hB⟩ := bad_or_withParity (s.reg rs1)
    · exact hbad
    · simp [verdictOf, hB] at hv
  · intro hbad
    exact raises_of_verdictOf (parityChecked_of_bad hbad)

theorem frmDec_raises_iff (rd rs1 rs2 : VReg) (s : State) : Raises (.frmDec rd rs1 rs2) s .checksumMismatch 0 ↔
    s.reg rs1 = [] ∨ (s.reg rs1).count true % 2 = 1 := by
  constructor
  · intro h
    obtain ⟨w, hv⟩ := verdictOf_of_raises (by decide) h
    obtain hbad | ⟨B, hB⟩ := bad_or_withParity (s.reg rs1)
    · exact hbad
    · rw [verdictOf, hB] at hv
      exact absurd hv (frameDecoded_withParity_ne B _ w)
  · intro hbad
    exact raises_of_verdictOf (frameDecoded_of_bad hbad _)

theorem eq_withParity_of_parChk {rd rs1 : VReg} {s : State} {B : BitSeq} {v : Nat}
    (h : Succeeds (.parChk rd rs1) s rd B v) : s.reg rs1 = withParity B := by
  obtain ⟨w, hv⟩ := verdictOf_of_succeeds (i := .parChk rd rs1) h
  rw [verdictOf] at hv
  obtain hbad | ⟨C, hC⟩ := bad_or_withParity (s.reg rs1)
  · rw [parityChecked_of_bad hbad] at hv
    cases hv
  · rw [hC, parityChecked_withParity] at hv
    rw [hC, (Verdict.success.inj hv).1]

/-! ## FRM.DEC as a command, on a source that passes the parity check -/

section
variable {rd rs1 rs2 : VReg} {s : State} {B : BitSeq} (hB : s.reg rs1 = withParity B)
include hB

theorem frmDec_raises_of_count (h : (flagscan B).length ≠ 3) :
    Raises (.frmDec rd rs1 rs2) s .frameNotFound (min (flagscan B).length 65535) :=
  raises_of_verdictOf (by rw [verdictOf, hB, frameDecoded_of_count h])

variable {f0 f1 f2 : Nat} (hflags : flagscan B = [f0, f1, f2])
include hflags

theorem frmDec_raises_of_address (h : unstuff (slice B (f0 + 8) f1) ≠ s.reg rs2) :
    Raises (.frmDec rd rs1 rs2) s .addressMismatch 0 :=
  raises_of_verdictOf (by rw [verdictOf, hB, frameDecoded_of_flags hflags, if_pos h])

theorem frmDec_succeeds (h : unstuff (slice B (f0 + 8) f1) = s.reg rs2) :
    Succeeds (.frmDec rd rs1 rs2) s rd (unstuff (B.drop (f2 + 8))) 0 :=
  succeeds_of_verdictOf (i := .frmDec rd rs1 rs2)
    (by rw [verdictOf, hB, frameDecoded_of_flags hflags, if_neg (not_not_intro h)])

end

end Sys2Proof.Machine
end

section
open Sys2Proof Sys2Proof.Machine

/-- Settles O22: the verdict is the capacity check on the stuffed sequence. -/
theorem stuffAnswersOrExceedsCapacity : Obligations.StuffAnswersOrExceedsCapacity :=
  fun rd rs1 _ => ⟨fun hfits => succeeds_of_verdictOf (i := .stfStuff rd rs1) (ifFits_of_le hfits),
    fun hlong => raises_of_verdictOf (ifFits_of_gt hlong)⟩

/-- Settles O23: each part is an induction over the input with the run counter generalised. -/
theorem stuffedSequenceIsSafe : Obligations.StuffedSequenceIsSafe :=
  fun x => ⟨unstuff_stuff x, zero_follows_run_of_stuff x, stuffFrom_length_le x (c := 0) (by decide),
    stuff_of_no_run⟩

/-- Settles O24: six 1s would be five 1s followed by a 1, and a flag holds six 1s. -/
theorem stuffingLaws : Obligations.StuffingLaws :=
  ⟨unstuff_stuff, fun _ h => ⟨stuff_of_no_run h, unstuff_of_no_run h⟩,
    fun x => ⟨no_six_ones_in_stuff x, no_flag_in_stuff x⟩, stuff_unstuff_iff, by decide, fun _ _ _ => rfl⟩

/-- Settles O25: the counter of `unstuff` at a position is the number of 1s just before it. -/
theorem unstuffDeletesStuffedZeros : Obligations.UnstuffDeletesStuffedZeros :=
  fun rd rs1 s => succeeds_of_verdictOf (i := .stfUnstuff rd rs1)
    (congrArg (Verdict.success · 0) (unstuff_eq_kept (s.reg rs1)))

/-- Settles O26: the appended bit is the parity, which makes the weight even. -/
theorem parGenMakesWeightEven : Obligations.ParGenMakesWeightEven := by
  intro rd rs1 s
  have hlen := withParity_length (s.reg rs1)
  constructor
  · intro hfits
    exact ⟨parity (s.reg rs1), succeeds_of_verdictOf (i := .parGen rd rs1) (ifFits_of_le (hlen ▸ hfits)),
      count_withParity _⟩
  · intro hlong
    exact raises_of_verdictOf (ifFits_of_gt (hlen ▸ hlong))

/-- Settles O27: a non-empty sequence of even weight is its front with the front's parity. -/
theorem parChkAcceptsEvenWeight : Obligations.ParChkAcceptsEvenWeight := by
  intro rd rs1 s
  refine ⟨fun hne heven => ?_, (parChk_raises_iff rd rs1 s).mpr⟩
  refine succeeds_of_verdictOf (i := .parChk rd rs1) ?_
  rw [verdictOf, eq_withParity_of_even hne heven, parityChecked_withParity, dropLast_withParity]

/-- Settles O28: the last bit is the parity of the body. -/
theorem frmEncLaysOutTheFrame : Obligations.FrmEncLaysOutTheFrame := by
  intro rd rs1 rs2 rs3 s
  refine ⟨parity (frameBody (s.reg rs1) (s.reg rs2) (s.reg rs3)), count_withParity _, frame_length _ _ _, ?_, ?_⟩
  · intro hfits
    exact succeeds_of_verdictOf (i := .frmEnc rd rs1 rs2 rs3) (ifFits_of_le hfits)
  · intro hlong
    exact raises_of_verdictOf (ifFits_of_gt hlong)

/-- Settles O29: the scan's three properties hold from every bit on, and no flag starts inside a stuffed field. -/
theorem flagscanIsLeftmostWithoutOverlap : Obligations.FlagscanIsLeftmostWithoutOverlap := by
  refine ⟨fun B => ⟨fun i hi => ?_, flagscanFrom_pairwise B 0 0, fun j hj => ?_⟩, flagscan_frameBody⟩
  · obtain ⟨k, rfl, -, hflag⟩ := mem_flagscanFrom B hi
    rwa [Nat.zero_add, slice_window]
  · rw [slice_window] at hj
    simpa [flagscan] using flagscanFrom_covers B (i := 0) (Nat.zero_le j) hj

/-- Settles O30: a frame that passes the parity check is its front with the front's parity. -/
theorem frmDecChecksInOrder : Obligations.FrmDecChecksInOrder := by
  intro rd rs1 rs2 s f B
  have hB (hne : f ≠ []) (heven : f.count true % 2 = 0) : s.reg rs1 = withParity B :=
    eq_withParity_of_even hne heven
  refine ⟨(frmDec_raises_iff rd rs1 rs2 s).mpr, fun hne heven hcount => ?_, fun f0 f1 f2 hne heven hflags => ?_⟩
  · exact frmDec_raises_of_count (hB hne heven) hcount
  · exact ⟨frmDec_raises_of_address (hB hne heven) hflags, frmDec_succeeds (hB hne heven) hflags⟩

/-- Settles O31: the body's three flags cut out the stuffed fields, and un-stuffing gives them back. -/
theorem frameDecodesForItsAddressee : Obligations.FrameDecodesForItsAddressee := by
  intro rd rs1 rs2 s p d src hframe
  have hv := frameDecoded_frame p d src (s.reg rs2)
  rw [← hframe] at hv
  refine ⟨fun heq => succeeds_of_verdictOf (i := .frmDec rd rs1 rs2) ?_, fun hne => raises_of_verdictOf ?_⟩
  · rw [verdictOf, hv, if_neg (not_not_intro heq.symm)]
  · rw [verdictOf, hv, if_pos hne.symm]

/-- Settles O32: a frame has even weight, so a sequence that differs from it in an odd number of bits has odd weight. -/
theorem oddErrorsInFrameAreRejected : Obligations.OddErrorsInFrameAreRejected := by
  intro rd rs1 rs2 s p d src hlen hodd
  rw [count_xorSeq _ _ hlen] at hodd
  have heven : (frame p d src).count true % 2 = 0 := count_withParity _
  exact (frmDec_raises_iff rd rs1 rs2 s).mpr (.inr (by omega))

/-- Settles O33: what the units answer is read off their completions, and the framer's verdicts are theirs. -/
theorem framerIsComposedOfItsUnits : Obligations.FramerIsComposedOfItsUnits := by
  refine ⟨fun rd rs1 rs2 rs3 r s u h => frmEnc_agrees_parGen h, ?_,
    fun rd rs1 rs2 rs3 a r s => frmEnc_raises_of_stfStuff,
    fun rd rs1 rs2 s => (frmDec_raises_iff rd rs1 rs2 s).trans (parChk_raises_iff rd rs1 s).symm, ?_⟩
  · intro rd rs1 rs2 rs3 r a b c s u p d src hp hd hsrc h
    rw [← eq_stuff_of_succeeds hp, ← eq_stuff_of_succeeds hd, ← eq_stuff_of_succeeds hsrc] at h
    exact frmEnc_agrees_parGen h
  · intro rd rs1 rs2 r s B hchk
    have hB := eq_withParity_of_parChk hchk
    refine ⟨frmDec_raises_of_count hB, fun f0 f1 f2 a a' b b' u v d p hflags ha hd hb hp => ?_⟩
    rw [← eq_unstuff_of_succeeds hd, ← eq_unstuff_of_succeeds hp, ha, hb, slice_to_end]
    exact ⟨frmDec_raises_of_address hB hflags, frmDec_succeeds hB hflags⟩
end

section
/-! The Hamming code (R131 to R135): the syndrome as an XOR of positions, what writing or inverting one bit does to
it, and the codeword of a block. -/

namespace Sys2Proof.Machine

/-! ## Checks and the syndrome (R132, R134) -/

/-- No position of a codeword has a bit from 5 on, so only five checks can be 1. -/
theorem hamCheck_of_ge {k : Nat} (hk : 5 ≤ k) (c : BitSeq) : hamCheck k c = false := by
  have hbit : ∀ i ∈ List.range HAM_N, ¬ (i + 1).testBit k = true := fun i hi => by
    have hi21 : i < 21 := List.mem_range.mp hi
    have hpow : 2 ^ 5 ≤ 2 ^ k := Nat.pow_le_pow_right (by decide) hk
    rw [Nat.testBit_eq_false_of_lt (by omega)]
    decide
  rw [hamCheck, List.filter_eq_nil_iff.mpr hbit]
  rfl

theorem testBit_syndrome (c : BitSeq) (k : Nat) : (syndrome c).testBit k = hamCheck k c := by
  have hbits : syndrome c = Nat.bit (hamCheck 0 c) (Nat.bit (hamCheck 1 c) (Nat.bit (hamCheck 2 c)
      (Nat.bit (hamCheck 3 c) (Nat.bit (hamCheck 4 c) 0)))) := by
    simp only [syndrome, Nat.bit_val]
    omega
  rw [hbits]
  match k with
  | 0 | 1 | 2 | 3 | 4 => simp only [Nat.testBit_bit_succ, Nat.testBit_bit_zero]
  | k + 5 => rw [hamCheck_of_ge (Nat.le_add_left 5 k)]; simp only [Nat.testBit_bit_succ, Nat.zero_testBit]

/-- Bit `k` of an XOR of positions is the parity of those with bit `k` set. -/
theorem testBit_foldl_xor (c : BitSeq) (k : Nat) (l : List Nat) (a : Nat) :
    (l.foldl (fun a i => if cell c i then a ^^^ (i + 1) else a) a).testBit k =
      (a.testBit k ^^ parity ((l.filter fun i => (i + 1).testBit k).map (cell c))) := by
  induction l generalizing a with
  | nil => simp [parity]
  | cons i l ih =>
    rw [List.foldl_cons, ih, List.filter_cons]
    cases hcell : cell c i <;> cases hbit : (i + 1).testBit k <;> simp [hcell, hbit, parity_cons]

theorem syndrome_eq_positionXor (c : BitSeq) : syndrome c = positionXor c := by
  apply Nat.eq_of_testBit_eq
  intro k
  rw [testBit_syndrome, positionXor, testBit_foldl_xor, Nat.zero_testBit, Bool.false_xor]
  rfl

theorem syndrome_eq_zero_iff (c : BitSeq) : syndrome c = 0 ↔ ∀ k, hamCheck k c = false := by
  simp only [← testBit_syndrome]
  exact ⟨fun h k => by rw [h, Nat.zero_testBit], Nat.zero_of_testBit_eq_false⟩

/-! ## One bit written or inverted (R132, R134) -/

theorem cell_set (s : BitSeq) {p : Nat} (hp : p < s.length) (b : Bool) (i : Nat) :
    cell (s.set p b) i = if i = p then b else cell s i := by
  simp only [cell, List.getD_eq_getElem?_getD, List.getElem?_set, hp, if_true, eq_comm (a := p)]
  split <;> rfl

theorem cell_set_ne (s : BitSeq) {p i : Nat} (h : i ≠ p) (b : Bool) : cell (s.set p b) i = cell s i := by
  simp only [cell, List.getD_eq_getElem?_getD, List.getElem?_set_ne h.symm]

/-- Writing bit `p` changes the parity of the cells read at `l` by the change of that bit, where `l` reads it. -/
theorem parity_map_cell_set {s : BitSeq} {p : Nat} (hp : p < s.length) (b : Bool) {l : List Nat} (hl : l.Nodup) :
    parity (l.map (cell (s.set p b))) = (parity (l.map (cell s)) ^^ (decide (p ∈ l) && (cell s p ^^ b))) := by
  induction l with
  | nil => rfl
  | cons i l ih =>
    obtain ⟨hi, hl⟩ := List.nodup_cons.mp hl
    rw [List.map_cons, parity_cons, ih hl, List.map_cons, parity_cons, cell_set s hp]
    by_cases hip : i = p
    · subst hip
      cases cell s i <;> cases b <;> simp [hi]
    · simp [hip, Ne.symm hip]

theorem hamCheck_set {c : BitSeq} (hc : c.length = 21) {p : Nat} (hp : p < 21) (b : Bool) (k : Nat) :
    hamCheck k (c.set p b) = (hamCheck k c ^^ ((p + 1).testBit k && (cell c p ^^ b))) := by
  rw [hamCheck, parity_map_cell_set (by omega) b (List.nodup_range.filter _), hamCheck]
  simp [HAM_N, hp]

/-- Inverting the bit at position `p + 1` XORs the position into the syndrome (R134). -/
theorem syndrome_flip {c : BitSeq} (hc : c.length = 21) {p : Nat} (hp : p < 21) :
    syndrome (flip c p) = syndrome c ^^^ (p + 1) := by
  apply Nat.eq_of_testBit_eq
  intro k
  rw [Nat.testBit_xor, testBit_syndrome, testBit_syndrome, flip, hamCheck_set hc hp]
  simp

theorem cell_flip_eq_xor (s : BitSeq) {p : Nat} (hp : p < s.length) (i : Nat) :
    cell (flip s p) i = (cell s i ^^ decide (i = p)) := by
  rw [cell_flip s i hp]
  split_ifs with h <;> simp [h]

theorem flip_flip (c : BitSeq) (p : Nat) : flip (flip c p) p = c := by
  apply List.ext_getElem?
  intro i
  rw [getElem?_flip, getElem?_flip]
  split
  · simp [Function.comp_def]
  · rfl

/-! ## The codeword of a block (R131, R133) -/

/-- Writing bits at positions outside `i` leaves cell `i` as it was. -/
theorem cell_placed_other {i : Nat} {qs : List Nat} (hi : ∀ q ∈ qs, i ≠ q - 1) (d c : BitSeq) :
    cell ((qs.zip d).foldl (fun c qb => c.set (qb.1 - 1) qb.2) c) i = cell c i := by
  induction qs generalizing d c with
  | nil => rfl
  | cons q qs ih =>
    obtain ⟨hq, hqs⟩ := List.forall_mem_cons.mp hi
    cases d with
    | nil => rfl
    | cons b d => rw [List.zip_cons_cons, List.foldl_cons, ih hqs, cell_set_ne c hq]

/-- Bits written at distinct positions are read back there in order. -/
theorem map_cell_placed {qs : List Nat} {d c : BitSeq} (hnodup : (qs.map (· - 1)).Nodup)
    (hqs : ∀ q ∈ qs, q - 1 < c.length) (hd : d.length = qs.length) :
    (qs.map fun q => cell ((qs.zip d).foldl (fun c qb => c.set (qb.1 - 1) qb.2) c) (q - 1)) = d := by
  induction qs generalizing d c with
  | nil => exact (List.length_eq_zero_iff.mp hd).symm
  | cons q qs ih =>
    obtain ⟨b, d, rfl⟩ := List.exists_cons_of_length_eq_add_one hd
    obtain ⟨hq, hqs⟩ := List.forall_mem_cons.mp hqs
    obtain ⟨hnew, hnodup⟩ := List.nodup_cons.mp hnodup
    have hother : ∀ q' ∈ qs, q - 1 ≠ q' - 1 := fun q' hq' heq => hnew (List.mem_map.mpr ⟨q', hq', heq.symm⟩)
    rw [List.map_cons, List.zip_cons_cons, List.foldl_cons, cell_placed_other hother, cell_set c hq, if_pos rfl,
      ih hnodup (by simpa using hqs) (Nat.succ.inj hd)]

@[simp] theorem placeData_length (d : BitSeq) : (placeData d).length = 21 := by
  rw [placeData, foldl_set_length, zeros_length, HAM_N]

theorem hstrip_placeData {d : BitSeq} (hd : d.length = 16) : hstrip (placeData d) = d :=
  map_cell_placed (by decide) (by decide) hd

/-- The parity slots are still 0 (R133). -/
theorem cell_placeData_slot (d : BitSeq) {k : Nat} (hk : k < 5) : cell (placeData d) (2 ^ k - 1) = false := by
  have hslot : ∀ k < 5, ∀ q ∈ DPOS, 2 ^ k - 1 ≠ q - 1 := by decide
  rw [placeData, cell_placed_other (hslot k hk)]
  simp [cell, zeros]

/-- `c` with the parity bits at positions `2 ^ k`, `k` in `ks`, written one after the other (R133). -/
def withChecks (ks : List Nat) (c : BitSeq) : BitSeq :=
  ks.foldl (fun c k => c.set (2 ^ k - 1) (hamCheck k c)) c

theorem henc_eq_withChecks (d : BitSeq) : henc d = withChecks (List.range 5) (placeData d) := rfl

/-- Parity bits are no data bits. -/
theorem hstrip_withChecks {ks : List Nat} (hks : ∀ k ∈ ks, k < 5) (c : BitSeq) :
    hstrip (withChecks ks c) = hstrip c := by
  have hslot : ∀ k < 5, ∀ q ∈ DPOS, q - 1 ≠ 2 ^ k - 1 := by decide
  induction ks generalizing c with
  | nil => rfl
  | cons k ks ih =>
    obtain ⟨hk, hks⟩ := List.forall_mem_cons.mp hks
    rw [withChecks, List.foldl_cons, ← withChecks, ih hks]
    exact List.map_congr_left fun q hq => cell_set_ne c (hslot k hk q hq) _

theorem slot_ne {i k : Nat} (h : i ≠ k) : 2 ^ i - 1 ≠ 2 ^ k - 1 := fun heq =>
  h (Nat.pow_right_injective (Nat.le_refl 2) (Nat.sub_one_cancel (Nat.two_pow_pos i) (Nat.two_pow_pos k) heq))

/-- Position `2 ^ k` lies in check set `k` only, so writing its parity bit clears check `k` and no other. -/
theorem hamCheck_set_slot {c : BitSeq} (hc : c.length = 21) {k : Nat} (hk : k < 5)
    (hslot : cell c (2 ^ k - 1) = false) (j : Nat) :
    hamCheck j (c.set (2 ^ k - 1) (hamCheck k c)) = if j = k then false else hamCheck j c := by
  have hp : ∀ k < 5, 2 ^ k - 1 < 21 := by decide
  rw [hamCheck_set hc (hp k hk), hslot, Nat.sub_add_cancel Nat.one_le_two_pow, Nat.testBit_two_pow]
  split_ifs with hjk
  · simp [hjk]
  · simp [Ne.symm hjk]

theorem hamCheck_withChecks {ks : List Nat} {c : BitSeq} (hc : c.length = 21) (hnodup : ks.Nodup)
    (hks : ∀ k ∈ ks, k < 5 ∧ cell c (2 ^ k - 1) = false) (j : Nat) :
    hamCheck j (withChecks ks c) = if j ∈ ks then false else hamCheck j c := by
  induction ks generalizing c with
  | nil => rfl
  | cons k ks ih =>
    obtain ⟨⟨hk, hslot⟩, hks⟩ := List.forall_mem_cons.mp hks
    obtain ⟨hnew, hnodup⟩ := List.nodup_cons.mp hnodup
    rw [withChecks, List.foldl_cons, ← withChecks, ih (by simpa using hc) hnodup, hamCheck_set_slot hc hk hslot]
    · by_cases hjk : j = k <;> simp [hjk]
    · intro i hi
      obtain ⟨hi5, hcell⟩ := hks i hi
      refine ⟨hi5, ?_⟩
      rwa [cell_set_ne c (slot_ne (ne_of_mem_of_not_mem hi hnew))]

theorem hstrip_henc {d : BitSeq} (hd : d.length = 16) : hstrip (henc d) = d := by
  rw [henc_eq_withChecks, hstrip_withChecks (by decide), hstrip_placeData hd]

theorem syndrome_henc (d : BitSeq) : syndrome (henc d) = 0 := by
  rw [syndrome_eq_zero_iff]
  intro k
  rw [henc_eq_withChecks, hamCheck_withChecks (placeData_length d) List.nodup_range fun k hk =>
    ⟨List.mem_range.mp hk, cell_placeData_slot d (List.mem_range.mp hk)⟩]
  split_ifs with hk
  · rfl
  · exact hamCheck_of_ge (by simpa using hk) _

end Sys2Proof.Machine
end

section
/-! The Hamming commands (R136 to R141): what each answers by the syndrome of its word, and the data after two
inverted bits. -/

namespace Sys2Proof.Machine

/-! ## Check sets as the obligations count them (R132) -/

/-- A check of 0 is an even number of 1 bits at the positions `qs` of its set. -/
theorem even_countP_of_hamCheck {k : Nat} {c : BitSeq} {qs : List Nat} (h : hamCheck k c = false)
    (hqs : (List.range HAM_N).filter (fun i => (i + 1).testBit k) = qs.map (· - 1)) :
    (qs.countP fun q => cell c (q - 1)) % 2 = 0 := by
  rw [hamCheck, hqs, List.map_map, parity_eq_weight, weight, List.count_eq_countP, List.countP_map] at h
  have hcount : (qs.countP fun q => cell c (q - 1)) % 2 ≠ 1 := by simpa [Function.comp_def] using h
  omega

/-! ## The five digits of the syndrome (R9, R139) -/

theorem uint_bitsN {n v : Nat} (hv : v < 2 ^ n) : uint (bitsN n v) = v := by
  apply Nat.eq_of_testBit_eq
  intro k
  rw [testBit_uint]
  rcases Nat.lt_or_ge k n with hk | hk
  · have hdigit : n - 1 - (n - 1 - k) = k := by omega
    rw [cell_of_lt _ (by simpa using hk)]
    simp [bitsN, hdigit]
  · rw [cell_of_ge _ (by simpa using hk), Nat.testBit_lt_two_pow (hv.trans_le (Nat.pow_le_pow_right (by decide) hk))]

/-! ## HAM.DEC and HAM.DECI by the syndrome (R135, R137, R138) -/

theorem hamDecoded_of_length {c : BitSeq} (h : c.length ≠ 21) : hamDecoded c = .failure .operandError 0 := if_pos h

section
variable {c : BitSeq} (hc : c.length = 21)
include hc

theorem hamDecoded_of_zero (h : syndrome c = 0) : hamDecoded c = .success (hstrip c) 0 := by
  simp [hamDecoded, hdec, HAM_N, hc, h]

theorem hamDecoded_of_position (hpos : 1 ≤ syndrome c) (hle : syndrome c ≤ 21) :
    hamDecoded c = .success (hstrip (flip c (syndrome c - 1))) (syndrome c) := by
  simp [hamDecoded, hdec, HAM_N, hc, Nat.ne_of_gt hpos, hle]

theorem hamDecoded_of_gt (h : 22 ≤ syndrome c) :
    hamDecoded c = .failure .uncorrectableError (syndrome c) := by
  simp [hamDecoded, hdec, HAM_N, hc, show syndrome c ≠ 0 by omega, show ¬ syndrome c ≤ 21 by omega]

theorem hamDecodedInjected_of_lt {p : Nat} (hp : p < 21) : hamDecodedInjected c p = hamDecoded (flip c p) := by
  simp [hamDecodedInjected, HAM_N, hc, hp]

end

theorem hamDecodedInjected_of_bad {c : BitSeq} {p : Nat} (h : c.length ≠ 21 ∨ p ≥ 21) :
    hamDecodedInjected c p = .failure .operandError 0 := by
  unfold hamDecodedInjected
  split_ifs with hlen hp
  · rfl
  · rfl
  · exact absurd h (not_or.mpr ⟨hlen, hp⟩)

/-- Inverting one bit of a codeword is undone by HAM.DEC (R140). -/
theorem hamDecoded_flip_henc {d : BitSeq} (hd : d.length = 16) {p : Nat} (hp : p ≤ 20) :
    hamDecoded (flip (henc d) p) = .success d (p + 1) := by
  have hz : syndrome (flip (henc d) p) = p + 1 := by
    rw [syndrome_flip (henc_length d) (by omega), syndrome_henc, Nat.zero_xor]
  rw [hamDecoded_of_position (by simp) (by omega) (by omega), hz, Nat.add_sub_cancel, flip_flip, hstrip_henc hd]

/-- HAM.DECI ends like HAM.DEC on what BV.FLIP leaves in `rd` (R138). -/
theorem hamDeci_agrees_flip_hamDec {rd rs1 : VReg} {p : Nat} {s : State} (hlen : (s.reg rs1).length = 21)
    (hp : p < 21) :
    ∃ t u u', exec (.hamDeci rd rs1 p) s = .next t ∧ exec (.bvFlip rd rs1 p) s = .next u ∧
      exec (.hamDec rd rd) u = .next u' ∧ t.status = u'.status ∧ t.info = u'.info ∧
      (t.status = .ok → t.reg rd = u'.reg rd) := by
  obtain ⟨u, hu, hdone⟩ : Succeeds (.bvFlip rd rs1 p) s rd (flip (s.reg rs1) p) 0 :=
    succeeds_of_verdictOf (i := .bvFlip rd rs1 p) (flipAt_of_lt (by omega))
  have hv : verdictOf (.hamDeci rd rs1 p) s.reg = verdictOf (.hamDec rd rd) u.reg := by
    rw [verdictOf, verdictOf, hdone.result, hamDecodedInjected_of_lt hlen hp]
  exact ⟨_, u, _, exec_eq_finish (.hamDeci rd rs1 p) s, hu, hv ▸ exec_eq_finish (.hamDec rd rd) u,
    finish_agrees (verdictOf_proper _ _) rd s u⟩

/-! ## Two inverted bits (R141) -/

/-- Where the decoder inverts a third position `z`, the data are wrong at the data positions among the three. -/
theorem xorSeq_hstrip_three_flips {c : BitSeq} (hc : c.length = 21) {q1 q2 z : Nat} (h1 : 1 ≤ q1 ∧ q1 ≤ 21)
    (h2 : 1 ≤ q2 ∧ q2 ≤ 21) (h3 : 1 ≤ z ∧ z ≤ 21) (h12 : q1 ≠ q2) (h13 : q1 ≠ z) (h23 : q2 ≠ z) :
    xorSeq (hstrip (flip (flip (flip c (q1 - 1)) (q2 - 1)) (z - 1))) (hstrip c) =
      DPOS.map fun q => decide (q ∈ [q1, q2, z]) := by
  rw [xorSeq, hstrip, hstrip, List.zipWith_map, List.zipWith_self]
  refine List.map_congr_left fun q hq => ?_
  have hpos : 1 ≤ q := (by decide : ∀ q ∈ DPOS, 1 ≤ q) q hq
  have hindex {r : Nat} (hr : 1 ≤ r) : q - 1 = r - 1 ↔ q = r := by omega
  rw [cell_flip_eq_xor _ (by simp only [flip_length]; omega), cell_flip_eq_xor _ (by rw [flip_length]; omega),
    cell_flip_eq_xor c (by omega)]
  simp only [hindex h1.1, hindex h2.1, hindex h3.1]
  by_cases hq1 : q = q1
  · subst hq1; simp [h12, h13]
  by_cases hq2 : q = q2
  · subst hq2; simp [hq1, h23]
  · simp [hq1, hq2, Bool.xor_comm _ (cell c (q - 1))]

/-- No more of the data positions than the three are wrong. -/
theorem countP_mem_three_le (q1 q2 z : Nat) : DPOS.countP (fun q => decide (q ∈ [q1, q2, z])) ≤ 3 := by
  rw [List.countP_eq_length_filter]
  have hsub : DPOS.filter (fun q => decide (q ∈ [q1, q2, z])) ⊆ [q1, q2, z] := fun q hq => by
    simpa using (List.mem_filter.mp hq).2
  exact ((List.Nodup.filter _ (by decide : DPOS.Nodup)).subperm hsub).length_le

/-- The XOR of two parity positions is no parity position, so one of the three is a data position. -/
theorem data_position_among_three {q1 q2 : Nat} (h1 : 1 ≤ q1) (h12 : q1 < q2) (h2 : q2 ≤ 21)
    (hz : q1 ^^^ q2 ≤ 21) : ∃ q ∈ DPOS, q ∈ [q1, q2, q1 ^^^ q2] := by
  have hsplit : ∀ q ≤ 21, 1 ≤ q → q ∉ DPOS → q ∈ [1, 2, 4, 8, 16] := by decide
  have hxor : ∀ a ∈ [1, 2, 4, 8, 16], ∀ b ∈ [1, 2, 4, 8, 16], a ≠ b → a ^^^ b ≤ 21 → a ^^^ b ∈ DPOS := by decide
  by_cases hd1 : q1 ∈ DPOS
  · exact ⟨q1, hd1, by simp⟩
  by_cases hd2 : q2 ∈ DPOS
  · exact ⟨q2, hd2, by simp⟩
  · exact ⟨q1 ^^^ q2, hxor q1 (hsplit q1 (by omega) h1 hd1) q2 (hsplit q2 h2 (by omega) hd2) h12.ne hz, by simp⟩

/-- The two positions cancel the checks of the codeword down to their XOR (R134). -/
theorem syndrome_two_flips_henc (d : BitSeq) {q1 q2 : Nat} (h1 : 1 ≤ q1 ∧ q1 ≤ 21) (h2 : 1 ≤ q2 ∧ q2 ≤ 21) :
    syndrome (flip (flip (henc d) (q1 - 1)) (q2 - 1)) = q1 ^^^ q2 := by
  rw [syndrome_flip (by simp) (by omega), syndrome_flip (henc_length d) (by omega), syndrome_henc, Nat.zero_xor,
    Nat.sub_add_cancel h1.1, Nat.sub_add_cancel h2.1]

/-- The XOR of two positions is not 0, and it is neither of the two. -/
theorem xor_ne_zero_and_ne {q1 q2 : Nat} (h1 : 1 ≤ q1) (h12 : q1 < q2) :
    q1 ^^^ q2 ≠ 0 ∧ q1 ≠ q1 ^^^ q2 ∧ q2 ≠ q1 ^^^ q2 := by
  refine ⟨fun h => h12.ne (Nat.xor_eq_zero_iff.mp h), fun h => ?_, fun h => ?_⟩
  · have hq2 : 0 = q2 := Nat.xor_right_inj.mp ((Nat.xor_zero q1).trans h)
    omega
  · have hq1 : 0 = q1 := Nat.xor_left_inj.mp ((Nat.zero_xor q2).trans h)
    omega

/-- After two inverted bits the decoder's third inversion leaves one to three data bits wrong. -/
theorem wrong_data_after_two_flips {d : BitSeq} (hd : d.length = 16) {q1 q2 : Nat} (h1 : 1 ≤ q1) (h12 : q1 < q2)
    (h2 : q2 ≤ 21) (hz : q1 ^^^ q2 ≤ 21) :
    let y := hstrip (flip (flip (flip (henc d) (q1 - 1)) (q2 - 1)) ((q1 ^^^ q2) - 1))
    1 ≤ (xorSeq y d).count true ∧ (xorSeq y d).count true ≤ 3 := by
  intro y
  obtain ⟨hz0, h13, h23⟩ := xor_ne_zero_and_ne h1 h12
  have hcount : (xorSeq y d).count true = DPOS.countP (fun q => decide (q ∈ [q1, q2, q1 ^^^ q2])) := by
    have hxor := xorSeq_hstrip_three_flips (henc_length d) ⟨h1, by omega⟩ ⟨by omega, h2⟩ ⟨by omega, hz⟩
      h12.ne h13 h23
    rw [hstrip_henc hd] at hxor
    rw [hxor, List.count_eq_countP, List.countP_map]
    simp [Function.comp_def]
  obtain ⟨q, hq, hmem⟩ := data_position_among_three h1 h12 h2 hz
  rw [hcount]
  exact ⟨List.countP_pos_iff.mpr ⟨q, hq, decide_eq_true hmem⟩, countP_mem_three_le q1 q2 _⟩

end Sys2Proof.Machine
end

section
open Sys2Proof Sys2Proof.Machine

/-- Settles O34: each parity bit clears its own check and no other, and the data stand at their positions. -/
theorem hamEncBuildsTheCodeword : Obligations.HamEncBuildsTheCodeword := by
  intro rd rs1 s
  refine ⟨fun hlen => ?_, fun hlen => raises_of_verdictOf (if_pos hlen)⟩
  have hcheck := (syndrome_eq_zero_iff _).mp (syndrome_henc (s.reg rs1))
  exact ⟨henc (s.reg rs1), succeeds_of_verdictOf (i := .hamEnc rd rs1) (if_neg (not_not_intro hlen)), henc_length _,
    hstrip_henc hlen, even_countP_of_hamCheck (hcheck 0) (by decide), even_countP_of_hamCheck (hcheck 1) (by decide),
    even_countP_of_hamCheck (hcheck 2) (by decide), even_countP_of_hamCheck (hcheck 3) (by decide),
    even_countP_of_hamCheck (hcheck 4) (by decide)⟩

/-- Settles O35: bit `k` of the XOR of positions is check `k`, and the syndrome fits in five digits. -/
theorem hamSynAnswersPositionXor : Obligations.HamSynAnswersPositionXor := by
  intro rd rs1 s
  refine ⟨fun hlen => ?_, fun hlen => raises_of_verdictOf (if_pos hlen)⟩
  have hfits : syndrome (s.reg rs1) < 2 ^ 5 := Nat.lt_succ_of_le (syndrome_le _)
  rw [← syndrome_eq_positionXor]
  exact ⟨bitsN 5 (syndrome (s.reg rs1)), succeeds_of_verdictOf (i := .hamSyn rd rs1) (if_neg (not_not_intro hlen)),
    bitsN_length _ _, uint_bitsN hfits⟩

/-- Settles O36: a codeword passes its five checks, and an inverted bit toggles the checks of its position. -/
theorem syndromeNamesTheInvertedPosition : Obligations.SyndromeNamesTheInvertedPosition := by
  refine ⟨fun d _ => syndrome_henc d, fun c q hc h1 h21 => ?_,
    fun c _ => ⟨syndrome_eq_positionXor c, syndrome_le c⟩⟩
  rw [syndrome_flip hc (by omega), Nat.sub_add_cancel h1]

/-- Settles O37, by the three ranges of the syndrome, which is the XOR of the positions. -/
theorem hamDecFollowsTheSyndrome : Obligations.HamDecFollowsTheSyndrome := by
  intro rd rs1 s c z data
  have hz : z = syndrome c := (syndrome_eq_positionXor c).symm
  rw [hz]
  exact ⟨fun hc h0 => succeeds_of_verdictOf (i := .hamDec rd rs1) (hamDecoded_of_zero hc h0),
    fun hc h1 h21 => succeeds_of_verdictOf (i := .hamDec rd rs1) (hamDecoded_of_position hc h1 h21),
    fun hc h22 => raises_of_verdictOf (hamDecoded_of_gt hc h22),
    fun hc => raises_of_verdictOf (hamDecoded_of_length hc)⟩

/-- Settles O38: HAM.DECI ends with the verdict of HAM.DEC on the flipped word. -/
theorem hamDeciIsFlipThenDecode : Obligations.HamDeciIsFlipThenDecode := by
  intro rd rs1 p s c1 z data
  have hz : z = syndrome c1 := (syndrome_eq_positionXor c1).symm
  rw [hz]
  refine ⟨fun hbad => raises_of_verdictOf (hamDecodedInjected_of_bad hbad), fun hlen hp => ?_⟩
  have hc1 : c1.length = 21 := (flip_length _ _).trans hlen
  have hv : verdictOf (.hamDeci rd rs1 p) s.reg = hamDecoded c1 := hamDecodedInjected_of_lt hlen hp
  exact ⟨fun h0 => succeeds_of_verdictOf (hv.trans (hamDecoded_of_zero hc1 h0)),
    fun h1 h21 => succeeds_of_verdictOf (hv.trans (hamDecoded_of_position hc1 h1 h21)),
    fun h22 => raises_of_verdictOf (hv.trans (hamDecoded_of_gt hc1 h22)),
    hamDeci_agrees_flip_hamDec hlen hp⟩

/-- Settles O39: the syndrome is the inverted position, and inverting it again gives the codeword back. -/
theorem hammingCorrectsEverySingleError : Obligations.HammingCorrectsEverySingleError := by
  intro rd rs1 s d hd
  refine ⟨fun h => ?_, fun p hp h => ?_, fun p hp h => ?_⟩
  · refine succeeds_of_verdictOf (i := .hamDec rd rs1) ?_
    rw [verdictOf, h, hamDecoded_of_zero (henc_length d) (syndrome_henc d), hstrip_henc hd]
  · refine succeeds_of_verdictOf (i := .hamDec rd rs1) ?_
    rw [verdictOf, h, hamDecoded_flip_henc hd hp]
  · refine succeeds_of_verdictOf (i := .hamDeci rd rs1 p) ?_
    rw [verdictOf, h, hamDecodedInjected_of_lt (henc_length d) (by omega), hamDecoded_flip_henc hd hp]

/-- Settles O40: the syndrome names a third position, and a parity position is never the XOR of two others. -/
theorem doubleErrorsAreNeverCorrected : Obligations.DoubleErrorsAreNeverCorrected := by
  constructor
  · intro rd rs1 s d q1 q2 hd h1 h12 h2 hreg
    have hlen : (s.reg rs1).length = 21 := by simp [hreg]
    have hz : syndrome (s.reg rs1) = q1 ^^^ q2 := by
      rw [hreg, syndrome_two_flips_henc d ⟨h1, by omega⟩ ⟨by omega, h2⟩]
    have hfixed := hamDecoded_of_position hlen
    have hreported := hamDecoded_of_gt hlen
    rw [hz] at hfixed hreported
    have hne := (xor_ne_zero_and_ne h1 h12).1
    refine ⟨hne, fun hle => ?_, fun hgt => raises_of_verdictOf (hreported hgt)⟩
    refine ⟨_, succeeds_of_verdictOf (i := .hamDec rd rs1) (hfixed (by omega) hle), hstrip_length _, ?_⟩
    rw [hreg]
    exact wrong_data_after_two_flips hd h1 h12 h2 hle
  -- The pairs are counted row by row, one row for each larger position.
  · constructor <;> (rw [List.countP_flatMap]; rfl)
end

section
/-! The remainder of the divider (R152, R157): one clock of it on the 3-bit remainder, the sliding window as the same
clocks, its linearity, and the polynomial it is the remainder of. -/

namespace Sys2Proof.Machine

/-! ## The bit-serial divider, one clock at a time (R152) -/

/-- The remainder of `D ++ [b]` from that of `D`: `b` enters, and the generator is XOR-ed in under a leading 1. -/
def remClock : BitSeq → Bool → BitSeq
  | [x, y, z], b => [y ^^ x, z, b ^^ x]
  | m, _ => m

theorem lowThree_divClock : ∀ (w : BitVec 4) (b : Bool), lowThree (divClock w b) = remClock (lowThree w) b := by
  decide

theorem mod2_concat (D : BitSeq) (b : Bool) : mod2 (D ++ [b]) = remClock (mod2 D) b := by
  rw [mod2, List.foldl_concat, lowThree_divClock, mod2]

/-- The remainder by clocks on bits alone, the form in which a long word's remainder is decided. -/
theorem mod2_eq_foldl (D : BitSeq) : mod2 D = D.foldl remClock (zeros 3) := by
  induction D using List.reverseRecOn with
  | nil => rfl
  | append_singleton D b ih => rw [mod2_concat, ih, List.foldl_concat]

theorem mod2_eq_bits (D : BitSeq) : ∃ x y z, mod2 D = [x, y, z] := ⟨_, _, _, rfl⟩

theorem mod2_of_length_three {m : BitSeq} (h : m.length = 3) : mod2 m = m := by
  have hbits : ∀ x y z, mod2 [x, y, z] = [x, y, z] := by decide
  obtain ⟨x, y, z, rfl⟩ := List.length_eq_three.mp h
  exact hbits x y z

/-- Leading 0 bits leave the divider's register at 0. -/
theorem mod2_zeros_append (k : Nat) (D : BitSeq) : mod2 (zeros k ++ D) = mod2 D := by
  induction k with
  | zero => rfl
  | succ k ih => exact ih

/-! ## The sliding window (R152) -/

/-- A window step clears the leading bit, and what it leaves of the window is one clock of the divider. -/
theorem windowStep_append (P rest : BitSeq) (x y z b : Bool) :
    windowStep (P ++ x :: y :: z :: b :: rest) P.length = P ++ false :: (remClock [x, y, z] b ++ rest) := by
  have hlead : cell (P ++ x :: y :: z :: b :: rest) P.length = x := by simp [cell]
  have hbefore : slice (P ++ x :: y :: z :: b :: rest) 0 P.length = P := by simp [slice]
  have hafter : (P ++ x :: y :: z :: b :: rest).drop (P.length + 4) = rest := by simp [List.drop_append]
  rw [windowStep, hlead, hbefore, slice_window, slice_to_end, hafter, List.drop_left]
  cases x <;> simp [remClock, xorSeq, CRC_G]

/-- After `i` steps the first `i` bits are cleared, and the three bits that follow are the remainder so far. -/
theorem foldl_windowStep (D : BitSeq) {i : Nat} (hi : i + 3 ≤ D.length) :
    (List.range i).foldl windowStep D = zeros i ++ (mod2 (D.take (i + 3)) ++ D.drop (i + 3)) := by
  induction i with
  | zero => simp [zeros, mod2_of_length_three, hi]
  | succ i ih =>
    obtain ⟨x, y, z, hm⟩ := mod2_eq_bits (D.take (i + 3))
    have hin : i + 3 < D.length := by omega
    have hstep := windowStep_append (zeros i) (D.drop (i + 4)) x y z D[i + 3]
    rw [zeros_length] at hstep
    rw [List.range_succ, List.foldl_concat, ih (by omega), hm, List.drop_eq_getElem_cons hin,
      show i + 1 + 3 = i + 3 + 1 by omega, ← List.take_concat_get' D (i + 3) hin, mod2_concat, hm]
    simpa [zeros, List.replicate_succ'] using hstep

/-- The bit-serial divider and the sliding window answer the same remainder (R152). -/
theorem mod2_eq_mod2Window (D : BitSeq) : mod2 D = mod2Window D := by
  unfold mod2Window
  split
  · next hshort =>
    rw [← mod2_zeros_append (3 - D.length), mod2_of_length_three]
    rw [List.length_append, zeros_length]
    omega
  · next hlong =>
    have hwhole : D.length - 3 + 3 = D.length := by omega
    rw [foldl_windowStep D hwhole.le, hwhole, List.take_length, List.drop_length, List.append_nil]
    simp [slice, hwhole, List.take_of_length_le]

/-! ## Linearity (R152) -/

theorem remClock_xorSeq {m m' : BitSeq} (hm : m.length = 3) (hm' : m'.length = 3) (b b' : Bool) :
    remClock (xorSeq m m') (b ^^ b') = xorSeq (remClock m b) (remClock m' b') := by
  obtain ⟨x, y, z, rfl⟩ := List.length_eq_three.mp hm
  obtain ⟨x', y', z', rfl⟩ := List.length_eq_three.mp hm'
  have hxor : ∀ p q r s : Bool, ((p ^^ q) ^^ (r ^^ s)) = ((p ^^ r) ^^ (q ^^ s)) := by decide
  simp only [remClock, xorSeq, List.zipWith_cons_cons, List.zipWith_nil_left, hxor]

/-- Both words are taken apart from the right, where the divider's next bit enters. -/
theorem mod2_xorSeq (a b : BitSeq) (h : a.length = b.length) :
    mod2 (xorSeq a b) = xorSeq (mod2 a) (mod2 b) := by
  induction a using List.reverseRecOn generalizing b with
  | nil =>
    obtain rfl := List.length_eq_zero_iff.mp h.symm
    rfl
  | append_singleton a p ih =>
    obtain rfl | ⟨b, q, rfl⟩ := b.eq_nil_or_concat'
    · simp at h
    · have hlen : a.length = b.length := by simpa using h
      have hsplit : xorSeq (a ++ [p]) (b ++ [q]) = xorSeq a b ++ [p ^^ q] := List.zipWith_append hlen
      rw [hsplit, mod2_concat, mod2_concat, mod2_concat, ih b hlen,
        remClock_xorSeq (mod2_length a) (mod2_length b)]

/-! ## The remainder as a polynomial over GF(2) (R151) -/

section
open Polynomial

/-- The polynomial of a sequence, index 0 the coefficient of the highest power. -/
noncomputable def bitPoly (w : BitSeq) : (ZMod 2)[X] :=
  w.foldl (fun a b => a * X + (if b then 1 else 0)) 0

theorem bitPoly_concat (w : BitSeq) (b : Bool) : bitPoly (w ++ [b]) = bitPoly w * X + (if b then 1 else 0) :=
  List.foldl_concat ..

/-- One clock multiplies by `x`, adds the new bit, and takes off the generator under a leading 1. -/
theorem bitPoly_remClock (x y z b : Bool) :
    bitPoly [x, y, z] * X + (if b then 1 else 0) =
      (if x then 1 else 0) * (X ^ 3 + X ^ 2 + 1) + bitPoly (remClock [x, y, z] b) := by
  have htwo : (2 : (ZMod 2)[X]) = 0 := CharTwo.two_eq_zero
  have hxor (p q : Bool) :
      ((if (p ^^ q) then 1 else 0) : (ZMod 2)[X]) = (if p then 1 else 0) + (if q then 1 else 0) := by
    cases p <;> cases q <;> simp [← htwo, one_add_one_eq_two]
  simp only [bitPoly, remClock, List.foldl_cons, List.foldl_nil, hxor]
  linear_combination (-(if x then 1 else 0) * (X ^ 2 + 1)) * htwo

theorem bitPoly_eq_mul_add_mod2 (D : BitSeq) :
    ∃ q, bitPoly D = q * (X ^ 3 + X ^ 2 + 1) + bitPoly (mod2 D) := by
  induction D using List.reverseRecOn with
  | nil =>
    have hzero : bitPoly (mod2 []) = 0 := by simp [bitPoly, mod2, lowThree]
    exact ⟨0, by rw [hzero, zero_mul, add_zero]; rfl⟩
  | append_singleton D b ih =>
    obtain ⟨q, hq⟩ := ih
    obtain ⟨x, y, z, hm⟩ := mod2_eq_bits D
    refine ⟨q * X + (if x then 1 else 0), ?_⟩
    rw [bitPoly_concat, mod2_concat, hq, hm]
    linear_combination bitPoly_remClock x y z b

end

end Sys2Proof.Machine
end

section
/-! Encoding and repair (R154 to R156): the remainder of a word whose last three bits are changed, the search for the
first qualifying rotation, and what CRC.DEC answers for an encoded word with at most one inverted bit. -/

namespace Sys2Proof.Machine

/-! ## The check bits (R154) -/

theorem xorSeq_zeros (s : BitSeq) : xorSeq s (zeros s.length) = s := by
  induction s with
  | nil => rfl
  | cons b s ih => exact congrArg₂ List.cons (Bool.xor_false b) ih

theorem zeros_xorSeq (s : BitSeq) : xorSeq (zeros s.length) s = s := by
  rw [xorSeq, List.zipWith_comm_of_comm Bool.xor_comm]
  exact xorSeq_zeros s

theorem xorSeq_self (s : BitSeq) : xorSeq s s = zeros s.length := by
  simp [xorSeq, zeros, List.zipWith_self]

/-- A change at the end of a word, as the XOR of the whole word with the change behind 0 bits. -/
theorem xorSeq_zeros_append (p c m : BitSeq) : xorSeq (p ++ c) (zeros p.length ++ m) = p ++ xorSeq c m := by
  rw [xorSeq, List.zipWith_append (zeros_length _).symm, ← xorSeq, xorSeq_zeros, xorSeq]

/-- A change of the last three bits of a word changes its remainder as it stands. -/
theorem mod2_append_xorSeq (p : BitSeq) {c m : BitSeq} (hc : c.length = 3) (hm : m.length = 3) :
    mod2 (p ++ xorSeq c m) = xorSeq (mod2 (p ++ c)) m := by
  rw [← xorSeq_zeros_append, mod2_xorSeq _ _ (by simp [hc, hm]), mod2_zeros_append, mod2_of_length_three hm]

theorem mod2_append_of_length_three (p : BitSeq) {c : BitSeq} (hc : c.length = 3) :
    mod2 (p ++ c) = xorSeq (mod2 (p ++ zeros 3)) c := by
  rw [← mod2_append_xorSeq p (zeros_length 3) hc, ← hc, zeros_xorSeq]

/-- An encoded word divides evenly (R154). -/
theorem mod2_crcenc (p : BitSeq) : mod2 (crcenc p) = zeros 3 := by
  rw [crcenc, mod2_append_of_length_three p (mod2_length _), xorSeq_self, mod2_length]

theorem crcenc_length (p : BitSeq) : (crcenc p).length = p.length + 3 := List.length_append

/-! ## The search (R155) -/

theorem xorFinal_eq (v m : BitSeq) :
    xorFinal v m = v.take (v.length - 3) ++ xorSeq (v.drop (v.length - 3)) m := by
  rw [xorFinal, slice_to_end]
  rfl

/-- The loop stops at the first rotation that qualifies, by induction on the rotations still to make. -/
theorem repairLoop_of_first {k left : Nat} (r : Nat) {v : BitSeq} (hk : k < left)
    (hfirst : ∀ q < k, 2 ≤ weight (mod2 (rotlN q v))) (hqual : weight (mod2 (rotlN k v)) ≤ 1) :
    repairLoop left r v = some (rotrN (r + k) (xorFinal (rotlN k v) (mod2 (rotlN k v))), r + k) := by
  induction k generalizing left r v with
  | zero =>
    obtain ⟨left, rfl⟩ := Nat.exists_eq_add_one.mpr hk
    exact if_pos hqual
  | succ k ih =>
    obtain ⟨left, rfl⟩ := Nat.exists_eq_add_one.mpr (Nat.zero_lt_of_lt hk)
    have hmiss : ¬ weight (mod2 v) ≤ 1 := Nat.not_le.mpr (hfirst 0 k.succ_pos)
    rw [repairLoop, if_neg hmiss, ih (r + 1) (Nat.lt_of_succ_lt_succ hk)
      (fun q hq => hfirst (q + 1) (Nat.succ_lt_succ hq)) hqual, Nat.add_right_comm, Nat.add_assoc]
    rfl

theorem repairLoop_of_none {left : Nat} (r : Nat) {v : BitSeq}
    (hnone : ∀ q < left, 2 ≤ weight (mod2 (rotlN q v))) : repairLoop left r v = none := by
  induction left generalizing r v with
  | zero => rfl
  | succ left ih =>
    have hmiss : ¬ weight (mod2 v) ≤ 1 := Nat.not_le.mpr (hnone 0 left.succ_pos)
    rw [repairLoop, if_neg hmiss]
    exact ih (r + 1) fun q hq => hnone (q + 1) (Nat.succ_lt_succ hq)

theorem repair_of_first {w : BitSeq} {k : Nat} (hk : k < w.length)
    (hfirst : ∀ q < k, 2 ≤ weight (mod2 (rotlN q w))) (hqual : weight (mod2 (rotlN k w)) ≤ 1) :
    repair w = some (rotrN k (xorFinal (rotlN k w) (mod2 (rotlN k w))), k) := by
  rw [repair, repairLoop_of_first 0 hk hfirst hqual, Nat.zero_add]

theorem repair_of_none {w : BitSeq} (hnone : ∀ q < w.length, 2 ≤ weight (mod2 (rotlN q w))) :
    repair w = none := repairLoop_of_none 0 hnone

/-! ## CRC.DEC (R156) -/

theorem crcdec_of_repair_some {x y : BitSeq} {r : Nat} (h : repair x = some (y, r)) :
    crcdec x = some (y.take (x.length - 3), r) := by
  rw [crcdec, h]
  rfl

theorem crcdec_of_repair_none {x : BitSeq} (h : repair x = none) : crcdec x = none := by
  rw [crcdec, h]

/-- A word that qualifies as it is keeps its payload, for only the check bits are changed (R163). -/
theorem crcdec_append_of_weight_le {p c : BitSeq} (hc : c.length = 3) (hqual : weight (mod2 (p ++ c)) ≤ 1) :
    crcdec (p ++ c) = some (p, 0) := by
  have hlen : (p ++ c).length - 3 = p.length := by simp [hc]
  have hrepair := repair_of_first (k := 0) (w := p ++ c) (by simp [hc]) (by simp) hqual
  rw [crcdec_of_repair_some hrepair, rotrN, rotlN, xorFinal_eq, hlen, List.take_left, List.take_left]

theorem crcdec_crcenc (p : BitSeq) : crcdec (crcenc p) = some (p, 0) :=
  crcdec_append_of_weight_le (mod2_length _) (by rw [← crcenc, mod2_crcenc]; decide)

theorem flip_append_right (p c : BitSeq) (j : Nat) : flip (p ++ c) (p.length + j) = p ++ flip c j := by
  have hcell : cell (p ++ c) (p.length + j) = cell c j := by
    simp [cell, List.getElem?_append_right]
  rw [flip, hcell, List.set_append_right _ _ (Nat.le_add_right ..), Nat.add_sub_cancel_left, flip]

/-- An inverted check bit leaves a remainder of weight 1 (R163 (a)). -/
theorem weight_xorSeq_flip : ∀ x y z : Bool, ∀ j < 3, weight (xorSeq [x, y, z] (flip [x, y, z] j)) = 1 := by
  decide

theorem crcdec_flip_check (p : BitSeq) {j : Nat} (hj : j < 3) :
    crcdec (flip (crcenc p) (p.length + j)) = some (p, 0) := by
  obtain ⟨x, y, z, hm⟩ := mod2_eq_bits (p ++ zeros 3)
  rw [crcenc, flip_append_right]
  refine crcdec_append_of_weight_le (flip_length _ _) ?_
  rw [mod2_append_of_length_three p (flip_length _ _), hm, weight_xorSeq_flip x y z j hj]

/-! ## Words of length 7: the generator divides x^7 + 1 (R163 (b), R164) -/

/-- The bit that leaves at the left comes back at the right, so a rotation is one clock on a bit 0. -/
theorem mod2_rotl_of_length_seven {w : BitSeq} (h : w.length = 7) : mod2 (rotl w) = remClock (mod2 w) false := by
  obtain ⟨b, v, rfl⟩ := List.exists_cons_of_length_eq_add_one h
  have hv : v.length = 6 := Nat.succ.inj h
  obtain ⟨x, y, z, hm⟩ := mod2_eq_bits v
  have hlead : ∀ b, mod2 (b :: zeros 6) = [b, b, false] := by decide
  have hsplit : b :: v = xorSeq (zeros 1 ++ v) (b :: zeros 6) :=
    congrArg₂ List.cons (Bool.false_xor b).symm (hv ▸ (xorSeq_zeros v).symm)
  have hclock : ∀ b x y z, remClock [x, y, z] b = remClock (xorSeq [x, y, z] [b, b, false]) false := by decide
  rw [rotl, mod2_concat, hsplit, mod2_xorSeq _ _ (by simp [hv]), mod2_zeros_append, hlead, hm, hclock]

theorem mod2_rotlN_of_length_seven {w : BitSeq} (h : w.length = 7) (r : Nat) :
    mod2 (rotlN r w) = (remClock · false)^[r] (mod2 w) := by
  induction r generalizing w with
  | zero => rfl
  | succ r ih => rw [rotlN, ih (by simpa using h), mod2_rotl_of_length_seven h, Function.iterate_succ_apply]

/-- The rotations of a 7-bit word that divides evenly divide evenly. -/
theorem mod2_rotlN_of_even {c : BitSeq} (h : c.length = 7) (heven : mod2 c = zeros 3) (r : Nat) :
    mod2 (rotlN r c) = zeros 3 := by
  rw [mod2_rotlN_of_length_seven h, heven]
  exact Function.iterate_fixed rfl r

theorem mod2_rotrN_of_even {c : BitSeq} (h : c.length = 7) (heven : mod2 c = zeros 3) (r : Nat) :
    mod2 (rotrN r c) = zeros 3 := by
  induction r generalizing c with
  | zero => exact heven
  | succ r ih =>
    refine ih (by simpa using h) ?_
    have hclock := mod2_rotl_of_length_seven (w := rotr c) (by simpa using h)
    obtain ⟨x, y, z, hm⟩ := mod2_eq_bits (rotr c)
    rw [rotl_rotr, heven, hm] at hclock
    have hback : ∀ x y z, zeros 3 = remClock [x, y, z] false → [x, y, z] = zeros 3 := by decide
    rw [hm, hback x y z hclock]

/-- The remainders that are not 0 follow each other in one cycle of seven, which meets those of weight 1. -/
theorem first_clock_of_weight_le : ∀ x y z : Bool, ∃ k < 7,
    (∀ q < k, 2 ≤ weight ((remClock · false)^[q] [x, y, z])) ∧ weight ((remClock · false)^[k] [x, y, z]) ≤ 1 := by
  decide

theorem repair_of_length_seven {w : BitSeq} (h : w.length = 7) : ∃ k < 7, weight (mod2 (rotlN k w)) ≤ 1 ∧
    repair w = some (rotrN k (xorFinal (rotlN k w) (mod2 (rotlN k w))), k) := by
  obtain ⟨x, y, z, hm⟩ := mod2_eq_bits w
  obtain ⟨k, hk, hfirst, hqual⟩ := first_clock_of_weight_le x y z
  simp only [← hm, ← mod2_rotlN_of_length_seven h] at hfirst hqual
  exact ⟨k, hk, hqual, repair_of_first (h ▸ hk) hfirst hqual⟩

/-- The remainder XOR-ed into the last three bits of its own word cancels. -/
theorem mod2_xorFinal {v : BitSeq} (h : 3 ≤ v.length) : mod2 (xorFinal v (mod2 v)) = zeros 3 := by
  rw [xorFinal_eq, mod2_append_xorSeq _ (by rw [List.length_drop]; omega) (mod2_length v), List.take_append_drop,
    xorSeq_self, mod2_length]

/-- Every 7-bit word is repaired to one that divides evenly (R164). -/
theorem repair_even_of_length_seven {w : BitSeq} (h : w.length = 7) :
    ∃ y r, repair w = some (y, r) ∧ mod2 y = zeros 3 := by
  obtain ⟨k, -, -, hrepair⟩ := repair_of_length_seven h
  have hv : (rotlN k w).length = 7 := (rotlN_length k w).trans h
  refine ⟨_, k, hrepair, mod2_rotrN_of_even ?_ (mod2_xorFinal (by omega)) k⟩
  rw [xorFinal_length _ (mod2_length _), hv]

/-! ## One inverted bit of a 7-bit word (R163 (b)) -/

theorem flip_eq_xorSeq (w : BitSeq) (i : Nat) : flip w i = xorSeq w (flip (zeros w.length) i) := by
  induction w generalizing i with
  | nil => rfl
  | cons b w ih =>
    cases i with
    | zero => exact congrArg₂ List.cons (Bool.xor_true b).symm (xorSeq_zeros w).symm
    | succ i => exact congrArg₂ List.cons (Bool.xor_false b).symm (ih i)

theorem rotlN_xorSeq {a b : BitSeq} (h : a.length = b.length) (r : Nat) :
    rotlN r (xorSeq a b) = xorSeq (rotlN r a) (rotlN r b) := by
  simp only [rotlN_eq_rotate]
  exact List.zipWith_rotate_distrib _ _ _ _ h

theorem xorSeq_cancel {a b : BitSeq} (h : a.length = b.length) : xorSeq (xorSeq a b) b = a := by
  induction a generalizing b with
  | nil => rfl
  | cons p a ih =>
    obtain ⟨q, b, rfl⟩ := List.exists_cons_of_length_eq_add_one h.symm
    exact congrArg₂ List.cons (by rw [Bool.xor_assoc, Bool.xor_self, Bool.xor_false]) (ih (Nat.succ.inj h))

theorem xorFinal_eq_xorSeq (v m : BitSeq) : xorFinal v m = xorSeq v (zeros (v.length - 3) ++ m) := by
  have h := xorSeq_zeros_append (v.take (v.length - 3)) (v.drop (v.length - 3)) m
  rw [List.take_append_drop, List.length_take_of_le (Nat.sub_le ..)] at h
  rw [xorFinal_eq, h]

theorem mod2_xorSeq_of_even {c e : BitSeq} (h : c.length = e.length) (heven : mod2 c = zeros 3) :
    mod2 (xorSeq c e) = mod2 e := by
  rw [mod2_xorSeq c e h, heven, ← mod2_length e, zeros_xorSeq]

/-- Where an even word is changed in its last three bits only, the remainder is the change, and undoes it. -/
theorem xorFinal_xorSeq_of_even {c e : BitSeq} (h : c.length = e.length) (heven : mod2 c = zeros 3)
    (hlast : zeros (e.length - 3) ++ mod2 e = e) : xorFinal (xorSeq c e) (mod2 (xorSeq c e)) = c := by
  rw [mod2_xorSeq_of_even h heven, xorFinal_eq_xorSeq, xorSeq_length, h, Nat.min_self, hlast, xorSeq_cancel h]

/-- A single 1 whose remainder has at most one 1 stands among the last three bits, and is the remainder there. -/
theorem rotlN_unit_of_weight_le : ∀ i < 7, ∀ k < 7, weight (mod2 (rotlN k (flip (zeros 7) i))) ≤ 1 →
    zeros 4 ++ mod2 (rotlN k (flip (zeros 7) i)) = rotlN k (flip (zeros 7) i) := by
  decide

/-- The remainders of the rotations are those of the inverted bit alone, so the search ends at that bit. -/
theorem repair_flip_of_length_seven {c : BitSeq} (h : c.length = 7) (heven : mod2 c = zeros 3) {i : Nat} (hi : i < 7) :
    ∃ k < 7, repair (flip c i) = some (c, k) := by
  obtain ⟨k, hk, hqual, hrepair⟩ := repair_of_length_seven (w := flip c i) (by rw [flip_length, h])
  have hword : rotlN k (flip c i) = xorSeq (rotlN k c) (rotlN k (flip (zeros 7) i)) := by
    rw [flip_eq_xorSeq, h, rotlN_xorSeq (by rw [flip_length, zeros_length, h])]
  have hlen : (rotlN k c).length = (rotlN k (flip (zeros 7) i)).length := by simp [h]
  have hrot := mod2_rotlN_of_even h heven k
  rw [hword, mod2_xorSeq_of_even hlen hrot] at hqual
  have hlast := rotlN_unit_of_weight_le i hi k hk hqual
  refine ⟨k, hk, ?_⟩
  rw [hrepair, hword, xorFinal_xorSeq_of_even hlen hrot (by simpa using hlast), rotrN_rotlN]

theorem crcdec_flip_of_length_four {p : BitSeq} (h : p.length = 4) {i : Nat} (hi : i < 7) :
    ∃ k < 7, crcdec (flip (crcenc p) i) = some (p, k) := by
  have hlen : (crcenc p).length = 7 := by rw [crcenc_length, h]
  obtain ⟨k, hk, hrepair⟩ := repair_flip_of_length_seven hlen (mod2_crcenc p) hi
  refine ⟨k, hk, ?_⟩
  rw [crcdec_of_repair_some hrepair, flip_length, hlen, crcenc, List.take_left' h]

/-! ## Short words (R164) -/

/-- The words of length `n`, listed. -/
def wordsOf (n : Nat) : List BitSeq := (List.replicate n [false, true]).sections

theorem mem_wordsOf (w : BitSeq) : w ∈ wordsOf w.length := by
  rw [wordsOf, List.mem_sections]
  induction w with
  | nil => exact .nil
  | cons b w ih => exact .cons (by cases b <;> simp) ih

theorem repair_length_three : ∀ w ∈ wordsOf 3, (repair w = none ↔ w.count true ≥ 2) := by
  decide

theorem repair_length_four : ∀ w ∈ wordsOf 4,
    (repair w = none ↔ w = [false, true, false, true] ∨ w = [true, false, true, false]) := by
  decide

theorem repair_length_five : ∀ w ∈ wordsOf 5, (repair w = none ↔ w = [true, true, true, true, true]) := by
  decide

/-! ## The verdicts of CRC.REP and CRC.DEC (R160, R161) -/

theorem crcDec_succeeds_of_crcdec {rd rs1 : VReg} {s : State} {x p : BitSeq} {r : Nat} (hx : s.reg rs1 = x)
    (hlen : 3 ≤ x.length) (h : crcdec x = some (p, r)) : Succeeds (.crcDec rd rs1) s rd p r :=
  succeeds_of_verdictOf (i := .crcDec rd rs1) (by rw [verdictOf, hx, h, crcSearched_some hlen])

theorem crcDec_raises_of_crcdec {rd rs1 : VReg} {s : State} {x : BitSeq} (hx : s.reg rs1 = x)
    (hlen : 3 ≤ x.length) (h : crcdec x = none) : Raises (.crcDec rd rs1) s .uncorrectableError x.length :=
  raises_of_verdictOf (by rw [verdictOf, hx, h, crcSearched_none hlen])

/-! ## CRC.STEP (R153, R158) -/

theorem crcStepped_of_length {w : BitSeq} (h : w.length ≠ 4) : crcStepped w = .failure .operandError 0 := if_pos h

end Sys2Proof.Machine
end

section
open Sys2Proof Sys2Proof.Machine

/-- Settles O41: each window step is a clock of the divider, and the clock is linear. -/
theorem crcModEqualsSlidingWindow : Obligations.CrcModEqualsSlidingWindow := by
  refine ⟨fun rd rs1 s => ?_, fun D => ⟨?_, mod2_eq_mod2Window D⟩, fun a b h => ?_⟩
  · rw [← mod2_eq_mod2Window]
    exact succeeds_of_verdictOf (i := .crcMod rd rs1) rfl
  · rw [← mod2_eq_mod2Window, mod2_length]
  · simp only [← mod2_eq_mod2Window]
    exact mod2_xorSeq a b h

/-- Settles O42: the quotient collects the leading bits at which the generator is XOR-ed in. -/
theorem crcModIsPolynomialRemainder : Obligations.CrcModIsPolynomialRemainder :=
  fun rd rs1 s => ⟨mod2 (s.reg rs1), succeeds_of_verdictOf (i := .crcMod rd rs1) rfl, mod2_length _,
    bitPoly_eq_mul_add_mod2 (s.reg rs1)⟩

/-- Settles O43: the generator inverts bits 0, 1 and 3 of a window that begins with 1. -/
theorem crcStepDividesOnce : Obligations.CrcStepDividesOnce := by
  intro rd rs1 s
  refine ⟨fun b c d h => ?_, fun b c d h => ?_, fun h => raises_of_verdictOf (crcStepped_of_length h)⟩
  · refine succeeds_of_verdictOf (i := .crcStep rd rs1) ?_
    rw [verdictOf, h]
    simp [crcStepped, divstep, cell, xorSeq, CRC_G]
  · refine raises_of_verdictOf ?_
    rw [verdictOf, h]
    rfl

/-- Settles O44: the appended remainder cancels itself, by linearity. -/
theorem crcEncDividesEvenly : Obligations.CrcEncDividesEvenly := by
  intro rd rs1 s
  have hlen := crcenc_length (s.reg rs1)
  refine ⟨fun hfits => ?_, fun hlong => raises_of_verdictOf (ifFits_of_gt (hlen ▸ hlong))⟩
  refine ⟨mod2 (s.reg rs1 ++ zeros 3), succeeds_of_verdictOf (i := .crcEnc rd rs1) (ifFits_of_le (hlen ▸ hfits)),
    mod2_length _, mod2_eq_mod2Window _, ?_⟩
  rw [← mod2_eq_mod2Window]
  exact mod2_crcenc (s.reg rs1)

/-- Settles O45: the loop stops at the first rotation that qualifies. -/
theorem crcRepTakesFirstQualifyingRotation : Obligations.CrcRepTakesFirstQualifyingRotation := by
  intro rd rs1 s w n m
  simp only [m, ← mod2_eq_mod2Window]
  refine ⟨fun hshort => raises_of_verdictOf (crcSearched_short hshort _), fun r hlen hr hqual hfirst => ?_,
    fun hlen hnone => raises_of_verdictOf ?_⟩
  · refine succeeds_of_verdictOf (i := .crcRep rd rs1) ?_
    rw [verdictOf, repair_of_first hr hfirst hqual, crcSearched_some hlen, xorFinal_eq, rotlN_length]
  · rw [verdictOf, repair_of_none hnone, crcSearched_none hlen]

/-- Settles O46: the search is that of CRC.REP. -/
theorem crcDecStripsTheRepairedWord : Obligations.CrcDecStripsTheRepairedWord := by
  intro rd rs1 s x n m
  simp only [m, ← mod2_eq_mod2Window]
  refine ⟨fun hshort => raises_of_verdictOf (crcSearched_short hshort _), fun r hlen hr hqual hfirst => ?_,
    fun hlen hnone => crcDec_raises_of_crcdec rfl hlen (crcdec_of_repair_none (repair_of_none hnone))⟩
  refine crcDec_succeeds_of_crcdec rfl hlen ?_
  rw [crcdec_of_repair_some (repair_of_first hr hfirst hqual), xorFinal_eq, rotlN_length]

/-- Settles O47: an encoded word qualifies at `r = 0`, with remainder 0. -/
theorem crcDecodesItsOwnEncoding : Obligations.CrcDecodesItsOwnEncoding :=
  fun _ _ _ p h => crcDec_succeeds_of_crcdec h (by rw [crcenc_length]; omega) (crcdec_crcenc p)

/-- Settles O48: an inverted check bit is the remainder itself, and in a 7-bit word a rotation brings any bit there. -/
theorem crcCorrectsWhereItCan : Obligations.CrcCorrectsWhereItCan := by
  intro rd rs1 s p i hi h
  have hlen : 3 ≤ (flip (crcenc p) i).length := by rw [flip_length, crcenc_length]; omega
  refine ⟨fun hcheck => ?_, fun h4 => ?_⟩
  · obtain ⟨j, rfl⟩ := Nat.exists_eq_add_of_le hcheck
    exact crcDec_succeeds_of_crcdec h hlen (crcdec_flip_check p (by omega))
  · obtain ⟨r, hr, hdec⟩ := crcdec_flip_of_length_four h4 (by omega : i < 7)
    exact ⟨r, hr, crcDec_succeeds_of_crcdec h hlen hdec⟩

/-- Settles O49: the flip at 1 qualifies unrotated, so its wrong bit stays; the flip at 5 qualifies in no rotation. -/
theorem crcMiscorrectsElevenBitWords : Obligations.CrcMiscorrectsElevenBitWords := by
  intro rd rs1 s p
  have henc : crcenc p = p ++ [false, true, false] := by rw [crcenc, mod2_eq_foldl]; decide
  rw [henc]
  have hwrong : crcdec (flip p 1 ++ [false, true, false]) = some (flip p 1, 0) :=
    crcdec_append_of_weight_le rfl (by rw [mod2_eq_foldl]; decide)
  have hreported : ∀ q < 11, 2 ≤ weight (mod2 (rotlN q (flip (p ++ [false, true, false]) 5))) := by
    simp only [mod2_eq_foldl]
    decide
  refine ⟨fun h => ⟨flip p 1, by decide, crcDec_succeeds_of_crcdec h (by decide) hwrong⟩, fun h => ?_⟩
  exact crcDec_raises_of_crcdec h (by decide) (crcdec_of_repair_none (repair_of_none hreported))

/-- Settles O50: the loop has `n` attempts, and the words of each length are listed. -/
theorem repairTerminates : Obligations.RepairTerminates := by
  refine ⟨fun w y r h => repair_some h, fun w h => ?_, fun w h => repair_length_three w (h ▸ mem_wordsOf w),
    fun w h => repair_length_four w (h ▸ mem_wordsOf w), fun w h => repair_length_five w (h ▸ mem_wordsOf w)⟩
  obtain ⟨y, r, hrep, heven⟩ := repair_even_of_length_seven h
  exact ⟨y, r, hrep, mod2_eq_mod2Window y ▸ heven⟩
end

section
/-! Which failure codes a command can raise (R181): the table of R181 read command by command, and the verdict of
each command against it. -/

namespace Sys2Proof.Machine

/-- The codes R181 lists for a command. -/
def raisedCodes : Instr → List Code
  | .bvPad8 _ _ | .bvRol _ _ | .bvRor _ _ | .bvRev _ _ | .stfUnstuff _ _ | .crcMod _ _ => []
  | .bvFlip _ _ _ | .stfStuff _ _ | .parGen _ _ | .frmEnc _ _ _ _ | .hamEnc _ _ | .hamSyn _ _ | .crcEnc _ _ =>
    [.operandError]
  | .parChk _ _ => [.checksumMismatch]
  | .frmDec _ _ _ => [.checksumMismatch, .frameNotFound, .addressMismatch]
  | .hamDec _ _ | .hamDeci _ _ _ | .crcRep _ _ | .crcDec _ _ => [.operandError, .uncorrectableError]
  | .crcStep _ _ => [.operandError, .noDivision]

/-- The verdict is a success, or a failure with one of these codes. -/
def Verdict.RaisesOnly (ks : List Code) : Verdict → Prop
  | .success _ _ => True
  | .failure k _ => k ∈ ks

@[simp] theorem Verdict.raisesOnly_success (ks : List Code) (x : BitSeq) (v : Nat) :
    (Verdict.success x v).RaisesOnly ks := trivial

@[simp] theorem Verdict.raisesOnly_failure (ks : List Code) (k : Code) (v : Nat) :
    (Verdict.failure k v).RaisesOnly ks ↔ k ∈ ks := Iff.rfl

@[simp] theorem operandError_raisesOnly (ks : List Code) : operandError.RaisesOnly ks ↔ .operandError ∈ ks := Iff.rfl

/-! ## The verdict of each unit's commands -/

theorem ifFits_raisesOnly (x : BitSeq) : (ifFits x).RaisesOnly [.operandError] := by
  obtain ⟨-, h⟩ | ⟨-, h⟩ := ifFits_cases x <;> simp [h]

theorem flipAt_raisesOnly (x : BitSeq) (p : Nat) : (flipAt x p).RaisesOnly [.operandError] := by
  rcases Nat.lt_or_ge p x.length with hin | hout
  · simp [flipAt_of_lt hin]
  · simp [flipAt_of_ge hout]

theorem parityChecked_raisesOnly (x : BitSeq) : (parityChecked x).RaisesOnly [.checksumMismatch] := by
  obtain hbad | ⟨B, rfl⟩ := bad_or_withParity x
  · simp [parityChecked_of_bad hbad]
  · simp

theorem frameDecoded_raisesOnly (f a : BitSeq) :
    (frameDecoded f a).RaisesOnly [.checksumMismatch, .frameNotFound, .addressMismatch] := by
  obtain hbad | ⟨B, rfl⟩ := bad_or_withParity f
  · simp [frameDecoded_of_bad hbad]
  · by_cases hcount : (flagscan B).length = 3
    · obtain ⟨f0, f1, f2, hflags⟩ := List.length_eq_three.mp hcount
      rw [frameDecoded_of_flags hflags]
      split <;> simp
    · simp [frameDecoded_of_count hcount]

theorem hamEncoded_raisesOnly (d : BitSeq) : (hamEncoded d).RaisesOnly [.operandError] := by
  unfold hamEncoded; split <;> simp

theorem hamDecoded_raisesOnly (c : BitSeq) : (hamDecoded c).RaisesOnly [.operandError, .uncorrectableError] := by
  unfold hamDecoded
  split
  · simp
  · split <;> simp

theorem hamDecodedInjected_raisesOnly (c : BitSeq) (p : Nat) :
    (hamDecodedInjected c p).RaisesOnly [.operandError, .uncorrectableError] := by
  unfold hamDecodedInjected
  split_ifs
  · simp
  · simp
  · exact hamDecoded_raisesOnly (flip c p)

theorem hamSyndrome_raisesOnly (c : BitSeq) : (hamSyndrome c).RaisesOnly [.operandError] := by
  unfold hamSyndrome; split <;> simp

theorem crcStepped_raisesOnly (w : BitSeq) : (crcStepped w).RaisesOnly [.operandError, .noDivision] := by
  unfold crcStepped
  split
  · simp
  · split <;> simp

theorem crcSearched_raisesOnly (n : Nat) (found : Option (BitSeq × Nat)) :
    (crcSearched n found).RaisesOnly [.operandError, .uncorrectableError] := by
  rcases Nat.lt_or_ge n 3 with hshort | h3
  · simp [crcSearched_short hshort]
  · match found with
    | none => simp [crcSearched_none h3]
    | some (y, r) => simp [crcSearched_some h3]

/-! ## Every command -/

theorem verdictOf_raisesOnly (i : Instr) (V : VReg → BitSeq) : (verdictOf i V).RaisesOnly (raisedCodes i) := by
  cases i with
  | bvPad8 | bvRol | bvRor | bvRev | stfUnstuff | crcMod => trivial
  | bvFlip => exact flipAt_raisesOnly _ _
  | stfStuff | parGen | frmEnc | crcEnc => exact ifFits_raisesOnly _
  | parChk => exact parityChecked_raisesOnly _
  | frmDec => exact frameDecoded_raisesOnly _ _
  | hamEnc => exact hamEncoded_raisesOnly _
  | hamDec => exact hamDecoded_raisesOnly _
  | hamDeci => exact hamDecodedInjected_raisesOnly _ _
  | hamSyn => exact hamSyndrome_raisesOnly _
  | crcStep => exact crcStepped_raisesOnly _
  | crcRep | crcDec => exact crcSearched_raisesOnly _ _

/-- After a command `STATUS` holds `OK` or a code R181 lists for it (R70, R181). -/
theorem exec_status {i : Instr} {s t : State} (h : exec i s = .next t) :
    t.status = .ok ∨ t.status ∈ raisedCodes i := by
  obtain rfl : s.finish (dest i) (verdictOf i s.reg) = t := by simpa [exec_eq_finish] using h
  have hraises := verdictOf_raisesOnly i s.reg
  cases hv : verdictOf i s.reg with
  | success x v => exact .inl rfl
  | failure k v =>
    rw [hv] at hraises
    exact .inr hraises

end Sys2Proof.Machine
end

section
open Sys2Proof Sys2Proof.Machine

/-- Settles O14: `STATUS` is left at `OK` or at a listed code, and the list of each command is read off the table. -/
theorem commandsRaiseOnlyTheirCodes : Obligations.CommandsRaiseOnlyTheirCodes := by
  intro i s t h
  obtain hok | hlisted := exec_status h
  · exact .inl hok
  · refine .inr ?_
    generalize t.status = k at hlisted ⊢
    revert k
    cases i <;> simp [raisedCodes]
end

section
open Sys2Proof Sys2Proof.Machine

/-- Settles O4: a reset keeps only the pending accesses, and taking it has left `rest` of them. -/
theorem resetInputRestoresResetState : Obligations.ResetInputRestoresResetState := by
  intro s rest hpending
  calc step s
    _ = perform .reset { s with pending := rest, reply := none } := step_of_pending hpending
    _ = .next { s with pending := rest, reply := none : State }.applyReset := rfl
    _ = .next { State.reset with pending := rest } := rfl
end
